-- ==== Sys2Proof/Word.lean ====
section
/-! DEFINITION. The widths of the values HCC moves (`00_scope.md` R4, `10_state.md` R16 to R31). -/

namespace Sys2Proof

/-- A host register or a command word, `REG_W` = 32 bits (R4). -/
abbrev Word := BitVec 32

/-- A byte of a port, a symbol (`NSYM` = 256 values, R4). -/
abbrev Byte := BitVec 8

/-- A node index of the arena, 9 bits (R24, R25). -/
abbrev Slot := BitVec 9

/-- A node weight, `WGT_W` = 40 bits (R4, R86). -/
abbrev Weight := BitVec 40

/-- The code of one symbol, 256 bits, left-aligned (R28). -/
abbrev CodeWord := BitVec 256

/-- A byte offset in the register space, `ADDR_W` = 16 bits (R41). -/
abbrev Offset := BitVec 16

/-- Every symbol, ascending: the loops `for s in 0..255` (R12). -/
def allSymbols : List Byte := (List.range 256).map (BitVec.ofNat 8)

end Sys2Proof
end

