-- ==== Sys2Proof/Config.lean ====
section
/-! DEFINITION. The fixed parameters of `00_scope.md` R4, the OPEN marker of a launch, and the free values
that need no type of the machine's state. (The free values of the sink and of the core state stand in
`Machine/State.lean`, beside the types they draw.) -/

namespace Sys2Proof.Config

/-- `ARENA_N`: the node slots 0..510 (R4). -/
abbrev arenaN : Nat := 511

/-- `NONE`: the null node index 0x1FF (R4, R25). -/
abbrev nullSlot : Slot := 0x1FF

/-- `MAX_CODE_LEN`: the longest code, in bits (R4, R95). -/
abbrev maxCodeLen : Nat := 255

/-- `MAX_INTERNAL`: the most internal nodes a tree may have (R4, R118). -/
abbrev maxInternal : Nat := 255

/-- The levels of the deepest recursion (R12, R116, R118). -/
abbrev maxLevels : Nat := 256

/-- `MAGIC[0..3]` of the launch that `State.reset` stands for: an OPEN parameter (R4, D10), so no value of it is
known here. Every other launch has its own, in `Launch.magic` (assumption 2). -/
opaque magic : Vector Byte 4

/-- The value a host read returns where the spec says 'an unspecified value (a draw)': the n-th draw
(R36, R37, R145; assumption 5). -/
opaque freeWord : Nat → Word

end Sys2Proof.Config
end

