-- ==== Sys2Proof/Machine/State.lean ====
section
/-! DEFINITION. The state of HCC: the core state (`10_state.md` R16 to R32), the ports (R33, R34), the launch
parameters (`00_scope.md` R4), the host's accesses still to come, and the reasons a step can stop. -/

namespace Sys2Proof.Machine

/-- The error kinds (`60_exceptions.md` R139). -/
inductive ErrKind where
  | invalidArgument
  | outOfMemory      -- keeps its code, never raised (R142)
  | writeFailure
  | invalidHeader
  | corruptData
  | emptyInput
  | sequenceError
  | countOverflow
  | noCode
  deriving DecidableEq, Repr

/-- A Symbol Node: one slot of the arena (R25). -/
structure Node where
  valid : Bool
  leaf : Bool
  side : Bool
  sym : Byte
  minSym : Byte
  parent : Slot
  c0 : Slot
  c1 : Slot
  w : Weight
  deriving DecidableEq, Repr, Inhabited

/-- A slot with every field 0 (R25). -/
def Node.empty : Node :=
  { valid := false, leaf := false, side := false, sym := 0, minSym := 0, parent := 0, c0 := 0, c1 := 0, w := 0 }

/-- The core state that an error leaves unspecified (R36): every element but `CTRL`, the stored fields of
`STATUS`, and `PENDING`. -/
structure Core where
  /-- `ARG` (R17) -/
  arg : Word
  /-- `RESULT` (R18) -/
  result : Word
  /-- `FREQ[0..255]` (R23) -/
  freq : Vector Word 256
  /-- `TREE_V`, `TREE_SRC`, `ROOT`, `NLEAF` (R24) -/
  treeV : Bool
  treeSrc : Bool
  root : Slot
  nleaf : BitVec 9
  /-- `NODE[0..510]` (R25) -/
  node : Vector Node 511
  /-- `CODE_LEN[0..255]`, `CODE_BITS[0..255]` (R28) -/
  codeLen : Vector Byte 256
  codeBits : Vector CodeWord 256
  /-- `CODES_V` (R29) -/
  codesV : Bool
  /-- `WB_ACC`, `WB_CNT` (R30) -/
  wbAcc : Byte
  wbCnt : BitVec 3
  /-- `HDR_OK`, `RB_CUR`, `RB_POS`, `RB_LA0`, `RB_LA1`, `RB_LA1_V` (R31) -/
  hdrOk : Bool
  rbCur : Byte
  rbPos : BitVec 4
  rbLa0 : Byte
  rbLa1 : Byte
  rbLa1V : Bool
  deriving DecidableEq, Repr, Inhabited

/-- Every element 0 (R35). -/
def Core.zero : Core :=
  { arg := 0, result := 0, freq := Vector.replicate 256 0
    treeV := false, treeSrc := false, root := 0, nleaf := 0, node := Vector.replicate 511 Node.empty
    codeLen := Vector.replicate 256 0, codeBits := Vector.replicate 256 0, codesV := false
    wbAcc := 0, wbCnt := 0
    hdrOk := false, rbCur := 0, rbPos := 0, rbLa0 := 0, rbLa1 := 0, rbLa1V := false }

/-- The environment's answer to one `WriteByte` or `Flush` (R52, R53). After a failure OUT holds what the sink
kept, which is the environment's to say (`93_implementation_defined.md` I-3; assumption 4). -/
inductive SinkAnswer where
  | ok
  | fail (kept : List Byte)
  deriving DecidableEq, Repr, Inhabited

/-- The environment: the two ports (R33, R34), the sink's answers, and the model's counter of draws. -/
structure Ports where
  /-- `IN_DATA`, fixed for a launch (R33) -/
  inData : List Byte
  /-- `IN_POS` (R33) -/
  inPos : Nat
  /-- `OUT_DATA` (R34) -/
  outData : List Byte
  /-- The sink's next answers, in order; when the list is used up each further answer is a draw (R53; assumption 4). -/
  sinkPlan : List SinkAnswer
  /-- How many values have been drawn: the model's own counter (assumption 5). -/
  draws : Nat
  deriving DecidableEq, Repr, Inhabited

/-- The parameters fixed for a launch (R4, R38): `MAGIC`, `IN_PRESENT`, `OUT_PRESENT`. -/
structure Launch where
  magic : Vector Byte 4
  inPresent : Bool
  outPresent : Bool
  deriving DecidableEq, Repr, Inhabited

/-- One event of the global order of host accesses and core steps (R57): the core's step (R73), a host read or
write of `bytes` bytes at a byte offset (R42, R44), or a hardware reset (R161). -/
inductive Event where
  | core
  | read (off : Offset) (bytes : Nat)
  | write (off : Offset) (bytes : Nat) (v : Word)
  | hardReset
  deriving DecidableEq, Repr

structure State where
  /-- The parameters of the launch (R4); no step writes them. -/
  launch : Launch
  /-- `CTRL.IE` (R20); the other bits of `CTRL` read 0 and are no state. -/
  ie : Bool
  /-- `STATUS`: the stored fields (R21). -/
  busy : Bool
  done : Bool
  err : Bool
  cmdLost : Bool
  errcode : BitVec 4
  lastOpc : Byte
  /-- `PENDING` (R22) -/
  pending : Word
  /-- The rest of the core state (R17, R18, R23 to R31). -/
  core : Core
  /-- The ports (R33, R34). -/
  ports : Ports
  /-- The events still to come, in order: the model's own field (assumption 3). -/
  agenda : List Event
  /-- What the host's reads have returned, oldest first: the model's own field (assumption 3). -/
  replies : List Word
  deriving DecidableEq, Repr

/-- What a command's body reads and writes: the core state and the ports. -/
structure Work where
  core : Core
  ports : Ports
  deriving DecidableEq, Repr

def State.work (s : State) : Work := { core := s.core, ports := s.ports }

def State.setWork (s : State) (w : Work) : State := { s with core := w.core, ports := w.ports }

/-- Why a step stops with a fault. Each names a case that no run from reset meets (`Sys2Proof/Safety.lean` states
the invariant that rules it out), and in which the spec's pseudocode has no result. All three are safe: the model
stops where the rules give no next state (assumption 8). -/
inductive Fault where
  /-- Raised by `GEN_CODES`, `SER_TREE`, `DEC_SYM`, `DEC_STREAM` (and by the steps of `COMPRESS` and `DECOMPRESS`)
  when a walk of the arena meets `NONE` or goes deeper than 256 levels (R12, R92): the arena holds no tree. Safe. -/
  | arenaNotATree
  /-- Raised by the commands that take bits from the reader when `RB_POS` is above 7 and a bit is due, so that
  rule R108 names no bit of `RB_CUR`. Safe. -/
  | cursorPastByte
  /-- Raised by a loop over the bytes or the bits left in the input, had it not ended within their number
  (R78: it always does). Safe. -/
  | loopBound
  deriving DecidableEq, Repr

/-- Why a step is refused. -/
inductive Refusal where
  /-- Raised by `exec` for a command that has no meaning yet; safe. No arm of `exec` raises it now. -/
  | notModelled (mnemonic : String)
  deriving DecidableEq, Repr

/-- What a command's body ends in: it went through, it raised an error (R11), or the rules give it no result.
A raise keeps every write made before it (R11). -/
inductive Res (α : Type) where
  | ok (a : α) (w : Work)
  | raised (e : ErrKind) (w : Work)
  | stuck (f : Fault)
  deriving DecidableEq, Repr

/-- Sequence (R12): go on from where the first part ended, unless it raised an error. -/
def Res.bind {α β : Type} (r : Res α) (k : α → Work → Res β) : Res β :=
  match r with
  | .ok a w => k a w
  | .raised e w => .raised e w
  | .stuck f => .stuck f

/-- A launch after hardware reset (R35, R161, R162): every core state element 0, `IN_POS` 0, nothing written. -/
def State.launched (l : Launch) (input : List Byte) (plan : List SinkAnswer) (agenda : List Event) : State :=
  { launch := l
    ie := false
    busy := false, done := false, err := false, cmdLost := false, errcode := 0, lastOpc := 0
    pending := 0
    core := Core.zero
    ports := { inData := input, inPos := 0, outData := [], sinkPlan := plan, draws := 0 }
    agenda := agenda
    replies := [] }

/-- The machine right after reset. Its launch has both ports connected, an unknown marker, an empty input and a
host that does nothing: none of these is HCC's to give (assumption 2). -/
def State.reset : State :=
  State.launched { magic := Config.magic, inPresent := true, outPresent := true } [] [] []

end Sys2Proof.Machine

namespace Sys2Proof.Config

/-- The sink's answer where the launch's plan names none: the n-th draw (R53; assumption 4). -/
opaque sinkAnswer : Nat → Machine.SinkAnswer

/-- The core state after an error: every element an unspecified value, the n-th draw (R36, R144; assumption 6). -/
opaque freeCore : Nat → Machine.Core

end Sys2Proof.Config
end

