-- ==== Sys2Proof/Machine/Ops.lean ====
section
/-! DEFINITION. The shared operations: error entry, completion and reset (the exception of this hardware and the
return from it), the port primitives, the arena's accessors, and the bit primitives of the writer and the reader. -/

namespace Sys2Proof.Machine

/-! ### Bits -/

/-- Bit i of `v` set to `b`; the other bits stay. -/
def setBit {n : Nat} (v : BitVec n) (i : Nat) (b : Bool) : BitVec n :=
  if b then v ||| (1#n <<< i) else v &&& ~~~(1#n <<< i)

/-- The low n bits of `v`, bit n-1 first: `for k in n-1 down to 0` (R100, R116). -/
def bitsMsb {m : Nat} (n : Nat) (v : BitVec m) : List Bool :=
  (List.range n).map fun k => v.getLsbD (n - 1 - k)

/-! ### Errors, completion, reset -/

/-- The codes of `STATUS.ERRCODE` (R139). -/
def ErrKind.code : ErrKind → BitVec 4
  | .invalidArgument => 1
  | .outOfMemory => 2
  | .writeFailure => 3
  | .invalidHeader => 4
  | .corruptData => 5
  | .emptyInput => 6
  | .sequenceError => 7
  | .countOverflow => 8
  | .noCode => 9

/-- Completion (R74). -/
def complete (s : State) : State := { s with busy := false, pending := 0, done := true }

/-- Error entry (R144): `ERR` and `ERRCODE` are written, and the core state behind them is unspecified from here on
(R36), so it is a fresh draw. -/
def errorEntry (e : ErrKind) (s : State) : State :=
  { s with
    err := true
    errcode := e.code
    core := Config.freeCore s.ports.draws
    ports := { s.ports with draws := s.ports.draws + 1 } }

/-- `raise E` in a command (R11, R73, R144): error entry, then completion. -/
def raise (e : ErrKind) (s : State) : State := complete (errorEntry e s)

/-- Hardware reset (R35, R161): every core state element 0; the ports and the launch stay. -/
def hardReset (s : State) : State :=
  { s with
    ie := false
    busy := false, done := false, err := false, cmdLost := false, errcode := 0, lastOpc := 0
    pending := 0
    core := Core.zero }

/-- The end of a command's body: completion, or error entry and completion (R73). -/
def settle (s : State) (r : Res Unit) : Host.Outcome State Fault Refusal :=
  match r with
  | .ok _ w => .next (complete (s.setWork w))
  | .raised e w => .next (raise e (s.setWork w))
  | .stuck f => .fault f

/-- The checks of R75 that follow the decode, in their order, then the body: the ports the command needs, then its
prerequisite. -/
def checked (needsIn needsOut prereq : Bool) (body : Work → Res Unit) (s : State) :
    Host.Outcome State Fault Refusal :=
  if (needsIn && !s.launch.inPresent) || (needsOut && !s.launch.outPresent) then .next (raise .invalidArgument s)
  else if prereq then settle s (body s.work)
  else .next (raise .sequenceError s)

/-! ### Setters of a body's state -/

def Work.setCore (w : Work) (c : Core) : Work := { w with core := c }

def Work.setPorts (w : Work) (p : Ports) : Work := { w with ports := p }

/-- Write the writer's Bit Buffer (R30). -/
def Core.setWb (c : Core) (acc : Byte) (cnt : BitVec 3) : Core := { c with wbAcc := acc, wbCnt := cnt }

/-- Write `RESULT` (R18). -/
def Core.setResult (c : Core) (v : Word) : Core := { c with result := v }

/-- `FREQ[b]` (R23). -/
def Core.freqOf (c : Core) (b : Byte) : Word := c.freq[b.toNat]'(b.isLt)

/-- Write `FREQ[b]` (R23). -/
def Core.setFreq (c : Core) (b : Byte) (v : Word) : Core :=
  { c with freq := c.freq.set b.toNat v b.isLt }

/-! ### The arena -/

/-- `NODE[i]` for a slot 0..510. `NONE` is no slot; it reads as an empty one, and the walks stop before they read it. -/
def Core.nodeAt (c : Core) (i : Slot) : Node := (c.node[i.toNat]?).getD Node.empty

/-- Write `NODE[i]`. -/
def Core.setNode (c : Core) (i : Slot) (n : Node) : Core := { c with node := c.node.setIfInBounds i.toNat n }

/-- `for i in 0..510: NODE[i] <- all fields 0` (R84, R119). -/
def Core.clearNodes (c : Core) : Core := { c with node := Vector.replicate 511 Node.empty }

/-! ### The code table -/

/-- `CODE_LEN[s]` (R28). -/
def Core.codeLenOf (c : Core) (b : Byte) : Byte := c.codeLen[b.toNat]'(b.isLt)

/-- `CODE_BITS[s]` (R28). -/
def Core.codeBitsOf (c : Core) (b : Byte) : CodeWord := c.codeBits[b.toNat]'(b.isLt)

/-- Write the entry of one symbol (R28). -/
def Core.setCode (c : Core) (b : Byte) (len : Byte) (bits : CodeWord) : Core :=
  { c with codeLen := c.codeLen.set b.toNat len b.isLt, codeBits := c.codeBits.set b.toNat bits b.isLt }

/-- The code of a symbol, root-side bit first: bit k is `CODE_BITS[s][255-k]` (R28, R122). -/
def Core.codeOf (c : Core) (b : Byte) : List Bool :=
  (List.range (c.codeLenOf b).toNat).map fun k => (c.codeBitsOf b).getLsbD (255 - k)

/-! ### The ports -/

/-- `ReadByte()` (R50): a byte, or `EOS`. -/
def Ports.readByte (p : Ports) : Option Byte × Ports :=
  match p.inData[p.inPos]? with
  | some b => (some b, { p with inPos := p.inPos + 1 })
  | none => (none, p)

/-- `Rewind()` (R51). -/
def Ports.rewind (p : Ports) : Ports := { p with inPos := 0 }

/-- The environment's next answer (R53): the plan's, or a draw where the plan names none. -/
def Ports.nextAnswer (p : Ports) : SinkAnswer × Ports :=
  match p.sinkPlan with
  | a :: rest => (a, { p with sinkPlan := rest })
  | [] => (Config.sinkAnswer p.draws, { p with draws := p.draws + 1 })

/-- `WriteByte(b)` (R52): true for `ok`. -/
def Ports.writeByte (p : Ports) (b : Byte) : Bool × Ports :=
  match p.nextAnswer with
  | (.ok, q) => (true, { q with outData := q.outData ++ [b] })
  | (.fail kept, q) => (false, { q with outData := q.outData ++ kept })

/-- `Flush()` (R53): true for `ok`; a success leaves `OUT_DATA` as it is. -/
def Ports.flush (p : Ports) : Bool × Ports :=
  match p.nextAnswer with
  | (.ok, q) => (true, q)
  | (.fail kept, q) => (false, { q with outData := q.outData ++ kept })

/-- How many bytes `ReadByte` can still return: the bound of the loops over the input (R78). -/
def Ports.bytesLeft (p : Ports) : Nat := p.inData.length - p.inPos

/-- `Rewind()` in a body (R51). -/
def rewind (w : Work) : Work := w.setPorts w.ports.rewind

/-- `loop: b <- ReadByte(); if b = EOS: return; body b` (R82, R124). The first argument bounds the passes. -/
def forBytes (body : Byte → Work → Res Unit) : Nat → Work → Res Unit
  | 0, _ => .stuck .loopBound
  | k + 1, w =>
    match w.ports.readByte with
    | (none, p) => .ok () (w.setPorts p)
    | (some b, p) => (body b (w.setPorts p)).bind fun _ w => forBytes body k w

/-- The loop over all the input that is left: one pass more than bytes, for the `EOS`. -/
def forInput (body : Byte → Work → Res Unit) (w : Work) : Res Unit := forBytes body (w.ports.bytesLeft + 1) w

/-! ### The bit stream writer -/

/-- `emit(b)` (R96). -/
def emit (b : Byte) (w : Work) : Res Unit :=
  match w.ports.writeByte b with
  | (true, p) => .ok () (w.setPorts p)
  | (false, p) => .raised .writeFailure (w.setPorts p)

/-- `Flush()` and the raise that follows a failure (R126, R129). -/
def flushOut (w : Work) : Res Unit :=
  match w.ports.flush with
  | (true, p) => .ok () (w.setPorts p)
  | (false, p) => .raised .writeFailure (w.setPorts p)

/-- Empty the writer: `WB_ACC <- 0; WB_CNT <- 0` (R97, R98). -/
def emptyWriter (w : Work) : Work := w.setCore (w.core.setWb 0 0)

/-- `push_bit(b)` (R97). -/
def pushBit (b : Bool) (w : Work) : Res Unit :=
  let acc := setBit w.core.wbAcc (7 - w.core.wbCnt.toNat) b
  if w.core.wbCnt = 7 then
    (emit acc (w.setCore (w.core.setWb acc 7))).bind fun _ w => .ok () (emptyWriter w)
  else
    .ok () (w.setCore (w.core.setWb acc (w.core.wbCnt + 1)))

/-- Push a bit sequence, its first bit first. -/
def pushBits : List Bool → Work → Res Unit
  | [], w => .ok () w
  | b :: bs, w => (pushBit b w).bind fun _ w => pushBits bs w

/-- `flush_partial()` (R98). -/
def flushPartial (w : Work) : Res Unit :=
  if w.core.wbCnt = 0 then .ok () w
  else (emit w.core.wbAcc w).bind fun _ w => .ok () (emptyWriter w)

/-- Send a list of whole bytes (R99). -/
def emitAll : List Byte → Work → Res Unit
  | [], w => .ok () w
  | b :: bs, w => (emit b w).bind fun _ w => emitAll bs w

/-! ### The bit stream reader -/

/-- `footer_count(F)` (R105): none where the rule raises `CORRUPT_DATA`. -/
def footerCount (f : Byte) : Option Nat :=
  if f = 0 ∨ f &&& (f - 1) ≠ 0 then none else some (8 - f.toNat.log2)

/-- `RB_FINAL` (R32). -/
def Core.rbFinal (c : Core) : Bool := c.hdrOk && !c.rbLa1V

/-- `RB_LIM` (R32). A footer that is no footer gives 0 here; the reader never holds one (R106, R107; assumption 9). -/
def Core.rbLim (c : Core) : Nat :=
  if c.hdrOk then
    if c.rbLa1V then 8 else (footerCount c.rbLa0).getD 0
  else 0

/-- `RB_END` (R32). -/
def Core.rbEnd (c : Core) : Bool := c.rbFinal && c.rbPos.toNat == c.rbLim

/-- `call footer_count(f)` for its check alone (R106, R107). -/
def checkFooter (f : Byte) (w : Work) : Res Unit :=
  match footerCount f with
  | some _ => .ok () w
  | none => .raised .corruptData w

/-- `ReadByte()` where the end of the input raises an error (R106, R113). -/
def readOr (e : ErrKind) (w : Work) : Res Byte :=
  match w.ports.readByte with
  | (some b, p) => .ok b (w.setPorts p)
  | (none, p) => .raised e (w.setPorts p)

/-- `close_reader()` (R112). -/
def closeReader (w : Work) : Work :=
  w.setCore { w.core with hdrOk := false, rbCur := 0, rbPos := 0, rbLa0 := 0, rbLa1 := 0, rbLa1V := false }

/-- Load the window with a current byte and the next one; the byte after it decides whether the current byte is
final, and then the footer is checked (R106, R107). -/
def loadWindow (cur la0 : Byte) (w : Work) : Res Unit :=
  match w.ports.readByte with
  | (some l1, p) =>
    .ok () { core := { w.core with rbCur := cur, rbLa0 := la0, rbPos := 0, rbLa1 := l1, rbLa1V := true }, ports := p }
  | (none, p) =>
    checkFooter la0
      { core := { w.core with rbCur := cur, rbLa0 := la0, rbPos := 0, rbLa1 := 0, rbLa1V := false }, ports := p }

/-- `prime()` (R106). -/
def prime (w : Work) : Res Unit :=
  (readOr .corruptData w).bind fun cur w => (readOr .corruptData w).bind fun la0 w => loadWindow cur la0 w

/-- `advance()` (R107), called only while `RB_LA1_V` is 1. -/
def advance (w : Work) : Res Unit := loadWindow w.core.rbLa0 w.core.rbLa1 w

/-- Move the cursor past a bit: `RB_POS <- RB_POS + 1` (R108). -/
def Core.moveCursor (c : Core) : Core := { c with rbPos := c.rbPos + 1 }

/-- `next_bit()` (R108). -/
def nextBit (w : Work) : Res Bool :=
  if w.core.rbEnd then .raised .corruptData w
  else if 8 ≤ w.core.rbPos.toNat then .stuck .cursorPastByte
  else
    let b := w.core.rbCur.getLsbD (7 - w.core.rbPos.toNat)
    let w := w.setCore w.core.moveCursor
    if w.core.rbPos = 8 ∧ w.core.rbLa1V then (advance w).bind fun _ w => .ok b w
    else .ok b w

/-- `v <- (v << 1) | b` (R109). -/
def shiftIn (v : Word) (b : Bool) : Word := (v <<< 1) ||| (BitVec.ofBool b).setWidth 32

/-- `read_bits(n)` (R109), from the value read so far. -/
def readBits : Nat → Word → Work → Res Word
  | 0, v, w => .ok v w
  | n + 1, v, w => (nextBit w).bind fun b w => readBits n (shiftIn v b) w

/-- More bits than the reader can still return: the bound of the loops that take bits (R78). -/
def bitBudget (w : Work) : Nat := 8 * w.ports.bytesLeft + 64

end Sys2Proof.Machine
end

