-- ==== Sys2Proof/Machine/Operands.lean ====
section
/-! DEFINITION. The operands a command reads (`30_encoding.md` R62). -/

namespace Sys2Proof.Machine

/-- The bit counts `PUSH_BITS` and `PULL_BITS` take: 1..32 (R62, R63). -/
def countLegal (n : Byte) : Bool := 1 ≤ n.toNat && n.toNat ≤ 32

/-- The data of `PUSH_BITS n`: the low n bits of `ARG`, bit n-1 first, read when the command executes (R62, R100). -/
def argBits (n : Byte) (c : Core) : List Bool := bitsMsb n.toNat c.arg

/-- The first check of R75 for a command with a bit count: an illegal count is a malformed word (R63). -/
def checkedCount (n : Byte) (go : State → Host.Outcome State Fault Refusal) (s : State) :
    Host.Outcome State Fault Refusal :=
  if countLegal n then go s else .next (raise .invalidArgument s)

end Sys2Proof.Machine
end

