-- ==== Sys2Proof/Machine/Flags.lean ====
section
/-! DEFINITION. The flags: the words `CTRL` and `STATUS` (`10_state.md` R20, R21), the IRQ output
(`60_exceptions.md` R152), and the prerequisites of the commands (`30_encoding.md` R64). -/

namespace Sys2Proof.Machine

/-- A field of a register: the value `v` with its low bit at bit `lo` (R6). -/
def fieldAt {n : Nat} (lo : Nat) (v : BitVec n) : Word := v.setWidth 32 <<< lo

/-- A one-bit field. -/
def flagAt (lo : Nat) (b : Bool) : Word := fieldAt lo (BitVec.ofBool b)

/-- `CTRL` as a host reads it (R20). -/
def ctrlWord (s : State) : Word := flagAt 0 s.ie

/-- `STATUS` (R21): the stored fields, the mirrors, and the computed `RB_END`. -/
def statusWord (s : State) : Word :=
  flagAt 0 s.busy ||| flagAt 1 s.done ||| flagAt 2 s.err ||| flagAt 3 s.cmdLost ||| fieldAt 4 s.errcode
    ||| flagAt 8 s.core.treeV ||| flagAt 9 s.core.treeSrc ||| flagAt 10 s.core.codesV ||| flagAt 11 s.core.hdrOk
    ||| flagAt 12 s.core.rbEnd ||| fieldAt 16 s.lastOpc

/-- The part of `STATUS` that an error leaves defined (R36, D43). -/
def statusDefined : Word := 0x00FF00FF

/-- The mirror bits 8 to 12 of `STATUS`, which an error leaves unspecified (R36). -/
def statusMirrors : Word := 0x00001F00

/-- The IRQ output: `CTRL.IE AND STATUS.DONE` (R152). -/
def irq (s : State) : Bool := s.ie && s.done

/-- `RB_FINAL`, `RB_LIM`, `RB_END` stand beside the reader's primitives in `Machine/Ops.lean`. A built tree is what
`GEN_CODES` needs (R64, R91). -/
def Core.builtTree (c : Core) : Bool := c.treeV && !c.treeSrc

/-- No bit buffered: what `WR_MAGIC` and `COMPRESS` need (R64, R99, R133). -/
def Core.writerEmpty (c : Core) : Bool := c.wbCnt == 0

/-- An open reader and a tree: what `DEC_SYM` and `DEC_STREAM` need (R64). -/
def Core.canDecode (c : Core) : Bool := c.hdrOk && c.treeV

end Sys2Proof.Machine
end

