-- ==== Sys2Proof/Machine/Control.lean ====
section
/-! DEFINITION. The control commands (`40_control.md` R76, R77). -/

namespace Sys2Proof.Machine

/-- `NOP` (R76): only completion; in the FAILED state too. -/
def execNop (s : State) : Host.Outcome State Fault Refusal := .next (complete s)

/-- `SOFT_RESET` (R77): the return from the FAILED state. Every core state element takes its reset value but `CTRL`;
then completion, with `LAST_OPC` 0x01. -/
def execSoftReset (s : State) : Host.Outcome State Fault Refusal :=
  .next (complete { hardReset s with ie := s.ie, lastOpc := 0x01 })

end Sys2Proof.Machine
end

