-- ==== Sys2Proof/Machine/Codes.lean ====
section
/-! DEFINITION. The code table generator (`42_code_table.md` R91 to R93). -/

namespace Sys2Proof.Machine

/-- The walk from a node up to the root (R92): the sides of the edges, the lowest first. The first argument bounds
the nodes; none where the walk does not reach a node without a parent within them. -/
def climb (c : Core) : Nat → Slot → Option (List Bool)
  | 0, _ => none
  | k + 1, m =>
    if m = Config.nullSlot then none
    else if (c.nodeAt m).parent = Config.nullSlot then some []
    else (climb c k (c.nodeAt m).parent).map ((c.nodeAt m).side :: ·)

/-- `for k in 0..len(code)-1: CODE_BITS[s][255-k] <- code[k]` (R92), from code bit k on. -/
def writeCode : Nat → List Bool → CodeWord → CodeWord
  | _, [], v => v
  | k, b :: bs, v => writeCode (k + 1) bs (setBit v (255 - k) b)

/-- Enter a symbol's code in the table (R92). -/
def enterCode (c : Core) (sym : Byte) (code : List Bool) : Core :=
  c.setCode sym (BitVec.ofNat 8 code.length) (writeCode 0 code (c.codeBitsOf sym))

/-- `walk(i)` (R92), for a walk of at most `MAX_CODE_LEN` edges (R95). -/
def walk (i : Slot) (w : Work) : Res Unit :=
  match climb w.core Config.maxLevels i with
  | some sides => .ok () (w.setCore (enterCode w.core (w.core.nodeAt i).sym sides.reverse))
  | none => .stuck .arenaNotATree

/-- The slots 0..510, ascending. -/
def allSlots : List Slot := (List.range Config.arenaN).map (BitVec.ofNat 9)

/-- The slots with `NODE[i].VALID = 1 and NODE[i].LEAF = 1`, ascending (R91). -/
def leafSlots (c : Core) : List Slot := ((allSlots.zip c.node.toList).filter fun p => p.2.valid && p.2.leaf).map Prod.fst

/-- `call walk(i)` over a list of slots (R91); a walk writes no node. -/
def walkAll : List Slot → Work → Res Unit
  | [], w => .ok () w
  | i :: rest, w => (walk i w).bind fun _ w => walkAll rest w

/-- `single_code(s)` (R93): length 1, bit 0. -/
def singleCode (sym : Byte) (c : Core) : Core := c.setCode sym 1 (setBit (c.codeBitsOf sym) 255 false)

/-- `for s in 0..255: CODE_LEN[s] <- 0; CODE_BITS[s] <- 0` (R91). -/
def Core.clearCodes (c : Core) : Core :=
  { c with codeLen := Vector.replicate 256 0, codeBits := Vector.replicate 256 0 }

/-- `CODES_V <- 1` (R91). -/
def markCodes (w : Work) : Work := w.setCore { w.core with codesV := true }

/-- The body of `GEN_CODES` (R91). -/
def genCodes (w : Work) : Res Unit :=
  let w := w.setCore w.core.clearCodes
  if w.core.root = Config.nullSlot then .stuck .arenaNotATree
  else if (w.core.nodeAt w.core.root).leaf then
    .ok () (markCodes (w.setCore (singleCode (w.core.nodeAt w.core.root).sym w.core)))
  else (walkAll (leafSlots w.core) w).bind fun _ w => .ok () (markCodes w)

/-- `GEN_CODES` (R91): needs a built tree. -/
def execGenCodes (s : State) : Host.Outcome State Fault Refusal := checked false false s.core.builtTree genCodes s

end Sys2Proof.Machine
end

