-- ==== Sys2Proof/Machine/Payload.lean ====
section
/-! DEFINITION. The payload encoder, the footer, and the payload decoder (`46_payload.md` R122 to R129). -/

namespace Sys2Proof.Machine

/-! ### Encoder -/

/-- `encode_sym(s)` (R122). -/
def encodeSym (sym : Byte) (w : Work) : Res Unit :=
  if w.core.codeLenOf sym = 0 then .raised .noCode w else pushBits (w.core.codeOf sym) w

/-- `ENC_SYM s` (R123): needs OUT and a code table. -/
def execEncSym (sym : Byte) (s : State) : Host.Outcome State Fault Refusal :=
  checked false true s.core.codesV (encodeSym sym) s

/-- The body of `ENC_STREAM` (R124). -/
def encStream (w : Work) : Res Unit := forInput encodeSym (rewind (closeReader w))

/-- `ENC_STREAM` (R124): needs IN, OUT and a code table. -/
def execEncStream (s : State) : Host.Outcome State Fault Refusal := checked true true s.core.codesV encStream s

/-! ### Footer -/

/-- The footer after a payload that left c bits in the writer: `1 << ((8 - c) mod 8)` (R125). -/
def footerOf (c : BitVec 3) : Byte := 1#8 <<< ((8 - c.toNat) % 8)

/-- The body of `FINISH` (R126). -/
def finish (w : Work) : Res Unit :=
  (flushPartial w).bind fun _ w' => (emit (footerOf w.core.wbCnt) w').bind fun _ w'' => flushOut w''

/-- `FINISH` (R126): needs OUT. -/
def execFinish (s : State) : Host.Outcome State Fault Refusal := checked false true true finish s

/-! ### Decoder -/

/-- The walk of R127 from node i down to a leaf. The first argument bounds the bits. -/
def decodeFrom : Nat → Slot → Work → Res Byte
  | 0, _, _ => .stuck .loopBound
  | k + 1, i, w =>
    (nextBit w).bind fun b w =>
      let j := if b then (w.core.nodeAt i).c1 else (w.core.nodeAt i).c0
      if j = Config.nullSlot then .stuck .arenaNotATree
      else if (w.core.nodeAt j).leaf then .ok (w.core.nodeAt j).sym w
      else decodeFrom k j w

/-- `decode_one()` (R127). -/
def decodeOne (w : Work) : Res Byte :=
  let r := w.core.root
  if r = Config.nullSlot then .stuck .arenaNotATree
  else if (w.core.nodeAt r).leaf then
    (nextBit w).bind fun b w => if b then .raised .corruptData w else .ok (w.core.nodeAt r).sym w
  else decodeFrom (bitBudget w) r w

/-- The body of `DEC_SYM` (R128). -/
def decSym (w : Work) : Res Unit :=
  if w.core.rbEnd then .ok () (w.setCore (w.core.setResult 0x00000100))
  else (decodeOne w).bind fun b w => .ok () (w.setCore (w.core.setResult (b.setWidth 32)))

/-- `DEC_SYM` (R128): needs IN, an open reader and a tree. -/
def execDecSym (s : State) : Host.Outcome State Fault Refusal := checked true false s.core.canDecode decSym s

/-- `while not RB_END: s <- decode_one(); call emit(s)` (R129). The first argument bounds the passes. -/
def decodeAll : Nat → Work → Res Unit
  | 0, _ => .stuck .loopBound
  | k + 1, w =>
    if w.core.rbEnd then .ok () w
    else (decodeOne w).bind fun b w => (emit b w).bind fun _ w => decodeAll k w

/-- The body of `DEC_STREAM` (R129). -/
def decStream (w : Work) : Res Unit := (decodeAll (bitBudget w) w).bind fun _ w => flushOut w

/-- `DEC_STREAM` (R129): needs IN, OUT, an open reader and a tree. -/
def execDecStream (s : State) : Host.Outcome State Fault Refusal := checked true true s.core.canDecode decStream s

end Sys2Proof.Machine
end

