-- ==== Sys2Proof/Machine/Reader.lean ====
section
/-! DEFINITION. The header check and the commands of the bit stream reader (`44_bit_reader.md` R113, R114). -/

namespace Sys2Proof.Machine

/-- Read n bytes of the header; the end of the input is `INVALID_HEADER` (R113). -/
def readHeader : Nat → Work → Res (List Byte)
  | 0, w => .ok [] w
  | n + 1, w =>
    (readOr .invalidHeader w).bind fun b w => (readHeader n w).bind fun bs w => .ok (b :: bs) w

/-- `HDR_OK <- 1` (R113). -/
def openReader (w : Work) : Work := w.setCore { w.core with hdrOk := true }

/-- The body of `RD_MAGIC` (R113): all four bytes are read before they are compared. -/
def rdMagic (magic : Vector Byte 4) (w : Work) : Res Unit :=
  (readHeader 4 (closeReader w)).bind fun got w =>
    if got = magic.toList then (prime w).bind fun _ w => .ok () (openReader w)
    else .raised .invalidHeader w

/-- `RD_MAGIC` (R113): needs IN. -/
def execRdMagic (s : State) : Host.Outcome State Fault Refusal := checked true false true (rdMagic s.launch.magic) s

/-- The body of `PULL_BITS n` (R114). -/
def pullBits (n : Byte) (w : Work) : Res Unit :=
  (readBits n.toNat 0 w).bind fun v w => .ok () (w.setCore (w.core.setResult v))

/-- `PULL_BITS n` (R114): needs IN and an open reader. -/
def execPullBits (n : Byte) (s : State) : Host.Outcome State Fault Refusal :=
  checkedCount n (checked true false s.core.hdrOk (pullBits n)) s

end Sys2Proof.Machine
end

