-- ==== Sys2Proof/Machine/Tree.lean ====
section
/-! DEFINITION. The frequency table and the tree builder (`41_tree_builder.md` R81 to R87). -/

namespace Sys2Proof.Machine

/-! ### Frequencies -/

/-- The body of `FREQ_CLEAR` (R81). -/
def freqClear (w : Work) : Res Unit := .ok () (w.setCore { w.core with freq := Vector.replicate 256 0 })

/-- Count one byte (R82). -/
def countByte (b : Byte) (w : Work) : Res Unit :=
  if w.core.freqOf b = 0xFFFFFFFF then .raised .countOverflow w
  else .ok () (w.setCore (w.core.setFreq b (w.core.freqOf b + 1)))

/-- The body of `FREQ_COUNT` (R82). -/
def freqCount (w : Work) : Res Unit := forInput countByte (closeReader w)

/-! ### The tree builder -/

/-- The key order of two nodes (R83): the weight, then the minimum symbol. -/
def sortsBefore (c : Core) (a b : Slot) : Bool :=
  (c.nodeAt a).w < (c.nodeAt b).w ||
    ((c.nodeAt a).w == (c.nodeAt b).w && (c.nodeAt a).minSym < (c.nodeAt b).minSym)

/-- The node of `a :: rest` that sorts first (R83, R84). -/
def firstOf (c : Core) (a : Slot) (rest : List Slot) : Slot :=
  rest.foldl (fun m x => if sortsBefore c x m then x else m) a

/-- The symbols with a nonzero count, ascending: `S` (R84). -/
def present (c : Core) : List Byte := ((allSymbols.zip c.freq.toList).filter fun p => p.2 != 0).map Prod.fst

/-- The slot of a symbol's leaf: the symbol's own number (R84). -/
def leafSlot (b : Byte) : Slot := b.setWidth 9

/-- Make the leaf of one symbol (R84). -/
def placeLeaf (c : Core) (b : Byte) : Core :=
  c.setNode (leafSlot b)
    { valid := true, leaf := true, side := false, sym := b, minSym := b
      parent := Config.nullSlot, c0 := Config.nullSlot, c1 := Config.nullSlot, w := (c.freqOf b).setWidth 40 }

/-- The parent of a and b (R84). -/
def mergedNode (c : Core) (a b : Slot) : Node :=
  { valid := true, leaf := false, side := false, sym := 0
    minSym := if (c.nodeAt a).minSym ≤ (c.nodeAt b).minSym then (c.nodeAt a).minSym else (c.nodeAt b).minSym
    parent := Config.nullSlot, c0 := a, c1 := b, w := (c.nodeAt a).w + (c.nodeAt b).w }

/-- `NODE[i].PARENT <- p; NODE[i].SIDE <- side` (R84). -/
def adopt (c : Core) (i p : Slot) (side : Bool) : Core := c.setNode i { c.nodeAt i with parent := p, side := side }

/-- Merge a and b into slot p (R84). -/
def mergeInto (c : Core) (p a b : Slot) : Core :=
  adopt (adopt (c.setNode p (mergedNode c a b)) a p false) b p true

/-- `while |work| ≥ 2`: the merges, into slots 256 + k, 256 + k + 1, … (R84). The first argument bounds them; each
takes one node off the worklist, so it need be no more than the worklist's length. -/
def mergeAll : Nat → Nat → List Slot → Core → Core × List Slot
  | 0, _, work, c => (c, work)
  | _ + 1, _, [], c => (c, [])
  | _ + 1, _, [a], c => (c, [a])
  | m + 1, k, x :: y :: rest, c =>
    let work := x :: y :: rest
    let a := firstOf c x (y :: rest)
    let left := work.erase a
    let b := firstOf c (left.headD Config.nullSlot) left.tail
    let p : Slot := BitVec.ofNat 9 (256 + k)
    mergeAll m (k + 1) (left.erase b ++ [p]) (mergeInto c p a b)

/-- The body of `BUILD_TREE` (R84). -/
def buildTree (w : Work) : Res Unit :=
  let syms := present w.core
  if syms = [] then .raised .emptyInput w
  else
    let c := { w.core with treeV := false, codesV := false }
    let leaves := syms.foldl placeLeaf c.clearNodes
    let (built, work) := mergeAll syms.length 0 (syms.map leafSlot) leaves
    .ok () (w.setCore { built with
      root := work.headD Config.nullSlot, nleaf := BitVec.ofNat 9 syms.length, treeSrc := false, treeV := true })

/-! ### The commands -/

/-- `FREQ_CLEAR` (R81). -/
def execFreqClear (s : State) : Host.Outcome State Fault Refusal := checked false false true freqClear s

/-- `FREQ_COUNT` (R82): needs IN. -/
def execFreqCount (s : State) : Host.Outcome State Fault Refusal := checked true false true freqCount s

/-- `BUILD_TREE` (R84). -/
def execBuildTree (s : State) : Host.Outcome State Fault Refusal := checked false false true buildTree s

end Sys2Proof.Machine
end

