-- ==== Sys2Proof/Machine/TreeCodec.lean ====
section
/-! DEFINITION. The tree serializer and deserializer (`45_tree_codec.md` R116 to R119). -/

namespace Sys2Proof.Machine

/-! ### Serializer -/

/-- `ser(i)` (R116). The first argument bounds the levels (R12). -/
def ser : Nat → Slot → Work → Res Unit
  | 0, _, _ => .stuck .arenaNotATree
  | d + 1, i, w =>
    if i = Config.nullSlot then .stuck .arenaNotATree
    else
      let n := w.core.nodeAt i
      if n.leaf then pushBits (true :: bitsMsb 8 n.sym) w
      else (pushBit false w).bind fun _ w => (ser d n.c0 w).bind fun _ w => ser d n.c1 w

/-- The body of `SER_TREE` (R117). -/
def serTree (w : Work) : Res Unit := ser Config.maxLevels w.core.root w

/-- `SER_TREE` (R117): needs OUT and a tree. -/
def execSerTree (s : State) : Host.Outcome State Fault Refusal := checked false true s.core.treeV serTree s

/-! ### Deserializer -/

/-- The working values of the deserializer, which are no state (R119). -/
structure Tally where
  nextSlot : Nat
  nint : Nat
  nleaf : Nat
  deriving DecidableEq, Repr

/-- A leaf as the deserializer makes it (R118). -/
def readLeaf (parent : Slot) (side : Bool) (sym : Byte) : Node :=
  { valid := true, leaf := true, side := side, sym := sym, minSym := 0
    parent := parent, c0 := Config.nullSlot, c1 := Config.nullSlot, w := 0 }

/-- An internal node as the deserializer makes it, its children still to come (R118). -/
def readInternal (parent : Slot) (side : Bool) : Node :=
  { valid := true, leaf := false, side := side, sym := 0, minSym := 0
    parent := parent, c0 := Config.nullSlot, c1 := Config.nullSlot, w := 0 }

/-- `NODE[i] <- n` in a body. -/
def putNode (i : Slot) (n : Node) (w : Work) : Work := w.setCore (w.core.setNode i n)

/-- `NODE[i].C0 <- j` (R118). -/
def putC0 (i j : Slot) (w : Work) : Work := putNode i { w.core.nodeAt i with c0 := j } w

/-- `NODE[i].C1 <- j` (R118). -/
def putC1 (i j : Slot) (w : Work) : Work := putNode i { w.core.nodeAt i with c1 := j } w

/-- `deser(parent, side)` (R118): the slot made, and the working values after it. The first argument bounds the
levels; a tree of at most 255 internal nodes has no more than 256. -/
def deser : Nat → Slot → Bool → Tally → Work → Res (Slot × Tally)
  | 0, _, _, _, _ => .stuck .arenaNotATree
  | d + 1, parent, side, t, w =>
    let i : Slot := BitVec.ofNat 9 t.nextSlot
    let t := { t with nextSlot := t.nextSlot + 1 }
    (nextBit w).bind fun b w =>
      if b then
        (readBits 8 0 w).bind fun v w =>
          .ok (i, { t with nleaf := t.nleaf + 1 }) (putNode i (readLeaf parent side (v.setWidth 8)) w)
      else if Config.maxInternal < t.nint + 1 then .raised .corruptData w
      else
        (deser d i false { t with nint := t.nint + 1 } (putNode i (readInternal parent side) w)).bind fun (j, t) w =>
          (deser d i true t (putC0 i j w)).bind fun (k, t) w => .ok (i, t) (putC1 i k w)

/-- The body of `DESER_TREE` (R119). -/
def deserTree (w : Work) : Res Unit :=
  let c := { w.core with treeV := false, codesV := false }
  (deser Config.maxLevels Config.nullSlot false { nextSlot := 0, nint := 0, nleaf := 0 } (w.setCore c.clearNodes)).bind
    fun (i, t) w =>
      .ok () (w.setCore { w.core with
        root := i, nleaf := BitVec.ofNat 9 t.nleaf, treeSrc := true, treeV := true })

/-- `DESER_TREE` (R119): needs IN and an open reader. -/
def execDeserTree (s : State) : Host.Outcome State Fault Refusal := checked true false s.core.hdrOk deserTree s

end Sys2Proof.Machine
end

