-- ==== Sys2Proof/Machine/Writer.lean ====
section
/-! DEFINITION. The commands of the bit stream writer (`43_bit_writer.md` R99 to R101). -/

namespace Sys2Proof.Machine

/-- The body of `WR_MAGIC` (R99): the marker's four bytes, in order (R55). -/
def wrMagic (magic : Vector Byte 4) (w : Work) : Res Unit := emitAll magic.toList w

/-- `WR_MAGIC` (R99): needs OUT and an empty writer. -/
def execWrMagic (s : State) : Host.Outcome State Fault Refusal :=
  checked false true s.core.writerEmpty (wrMagic s.launch.magic) s

/-- The body of `PUSH_BITS n` (R100). -/
def pushArg (n : Byte) (w : Work) : Res Unit := pushBits (argBits n w.core) w

/-- `PUSH_BITS n` (R100): needs OUT. -/
def execPushBits (n : Byte) (s : State) : Host.Outcome State Fault Refusal :=
  checkedCount n (checked false true true (pushArg n)) s

/-- `FLUSH_PARTIAL` (R101): needs OUT. -/
def execFlushPartial (s : State) : Host.Outcome State Fault Refusal := checked false true true flushPartial s

end Sys2Proof.Machine
end

