-- ==== Sys2Proof/Machine/Drivers.lean ====
section
/-! DEFINITION. The composite commands (`47_drivers.md` R133, R134): the bodies of their steps, without the steps'
checks. -/

namespace Sys2Proof.Machine

/-- The body of `COMPRESS` (R133). -/
def compress (magic : Vector Byte 4) (w : Work) : Res Unit :=
  (freqClear (rewind w)).bind fun _ w =>
  (freqCount w).bind fun _ w =>
  (buildTree w).bind fun _ w =>
  (genCodes w).bind fun _ w =>
  (wrMagic magic w).bind fun _ w =>
  (serTree w).bind fun _ w =>
  (encStream w).bind fun _ w =>
  finish w

/-- `COMPRESS` (R133): needs IN, OUT and an empty writer. -/
def execCompress (s : State) : Host.Outcome State Fault Refusal :=
  checked true true s.core.writerEmpty (compress s.launch.magic) s

/-- The body of `DECOMPRESS` (R134). -/
def decompress (magic : Vector Byte 4) (w : Work) : Res Unit :=
  (rdMagic magic w).bind fun _ w =>
  (deserTree w).bind fun _ w =>
  decStream w

/-- `DECOMPRESS` (R134): needs IN and OUT. -/
def execDecompress (s : State) : Host.Outcome State Fault Refusal :=
  checked true true true (decompress s.launch.magic) s

end Sys2Proof.Machine
end

