-- ==== Sys2Proof/Syntax.lean ====
section
/-! DEFINITION. The 20 commands of the opcode map (`30_encoding.md` R64, `opcode_table.json`). -/

namespace Sys2Proof

/-- One constructor per row of the opcode map (R64), with the operand `OPD` where the row takes one (R62). -/
inductive Instr where
  | nop
  | softReset
  | freqClear
  | freqCount
  | buildTree
  | genCodes
  | wrMagic
  | pushBits (n : Byte)
  | serTree
  | encSym (sym : Byte)
  | encStream
  | flushPartial
  | finish
  | rdMagic
  | pullBits (n : Byte)
  | deserTree
  | decSym
  | decStream
  | compress
  | decompress
  deriving DecidableEq, Repr

end Sys2Proof
end

