-- ==== Sys2Proof/Machine/Dispatch.lean ====
section
/-! DEFINITION. The dispatch: one meaning per command (`30_encoding.md` R64). -/

namespace Sys2Proof.Machine

def exec (i : Instr) (s : State) : Host.Outcome State Fault Refusal :=
  match i with
  | .nop => Sys2Proof.Machine.execNop s
  | .softReset => Sys2Proof.Machine.execSoftReset s
  | .freqClear => Sys2Proof.Machine.execFreqClear s
  | .freqCount => Sys2Proof.Machine.execFreqCount s
  | .buildTree => Sys2Proof.Machine.execBuildTree s
  | .genCodes => Sys2Proof.Machine.execGenCodes s
  | .wrMagic => Sys2Proof.Machine.execWrMagic s
  | .pushBits n => Sys2Proof.Machine.execPushBits n s
  | .serTree => Sys2Proof.Machine.execSerTree s
  | .encSym sym => Sys2Proof.Machine.execEncSym sym s
  | .encStream => Sys2Proof.Machine.execEncStream s
  | .flushPartial => Sys2Proof.Machine.execFlushPartial s
  | .finish => Sys2Proof.Machine.execFinish s
  | .rdMagic => Sys2Proof.Machine.execRdMagic s
  | .pullBits n => Sys2Proof.Machine.execPullBits n s
  | .deserTree => Sys2Proof.Machine.execDeserTree s
  | .decSym => Sys2Proof.Machine.execDecSym s
  | .decStream => Sys2Proof.Machine.execDecStream s
  | .compress => Sys2Proof.Machine.execCompress s
  | .decompress => Sys2Proof.Machine.execDecompress s

end Sys2Proof.Machine
end

