-- ==== Sys2Proof/WellFormed.lean ====
section
/-! DEFINITION. Which commands the encoding has a word for (`30_encoding.md` R62, R63). -/

namespace Sys2Proof

/-- A bit count is legal from 1 to 32; every symbol is legal; no other command has an operand (R62). -/
def Instr.wellFormed : Instr → Bool
  | .pushBits n => 1 ≤ n.toNat && n.toNat ≤ 32
  | .pullBits n => 1 ≤ n.toNat && n.toNat ≤ 32
  | .encSym _ => true
  | .nop | .softReset | .freqClear | .freqCount | .buildTree | .genCodes | .wrMagic | .serTree | .encStream
  | .flushPartial | .finish | .rdMagic | .deserTree | .decSym | .decStream | .compress | .decompress => true

end Sys2Proof
end

