-- ==== Sys2Proof/Decode.lean ====
section
/-! DEFINITION. The command word: its decoder, total on all 32-bit words (`30_encoding.md` R61 to R67), its
encoder, and the assembler's spelling of a command (R68). -/

namespace Sys2Proof

/-- Why a word is malformed (R63): the first of these that holds, in the order of R67. -/
inductive Malformed where
  | mbzNonzero       -- `MBZ` is not zero
  | reservedOpcode   -- `OPC` is not in the opcode map (R65)
  | operandNotZero   -- `OPD` is not zero for a command that takes none
  | countOutOfRange  -- the bit count is 0 or above 32
  deriving DecidableEq, Repr

/-- What a word is: one command, or malformed (R67). -/
inductive Decoded where
  | instr (i : Instr)
  | malformed (why : Malformed)
  deriving DecidableEq, Repr

/-- `OPC`, bits 7:0 of the command word (R61). -/
def opcField (w : Word) : Byte := w.extractLsb' 0 8

/-- `OPD`, bits 15:8 (R61). -/
def opdField (w : Word) : Byte := w.extractLsb' 8 8

/-- `MBZ`, bits 31:16 (R61). -/
def mbzField (w : Word) : BitVec 16 := w.extractLsb' 16 16

/-- A command that takes no operand: malformed unless `OPD` is 0 (R67). -/
def decodePlain (opd : Byte) (i : Instr) : Decoded :=
  if opd = 0 then .instr i else .malformed .operandNotZero

/-- A command that takes a bit count: malformed unless it is 1..32 (R62, R67). -/
def decodeCount (n : Byte) (i : Instr) : Decoded :=
  if 1 ≤ n.toNat ∧ n.toNat ≤ 32 then .instr i else .malformed .countOutOfRange

/-- The opcode map (R64), given `OPC` and `OPD`. -/
def decodeOpc (opc opd : Byte) : Decoded :=
  match opc.toNat with
  | 0x00 => decodePlain opd .nop
  | 0x01 => decodePlain opd .softReset
  | 0x10 => decodePlain opd .freqClear
  | 0x11 => decodePlain opd .freqCount
  | 0x20 => decodePlain opd .buildTree
  | 0x21 => decodePlain opd .genCodes
  | 0x30 => decodePlain opd .wrMagic
  | 0x31 => decodeCount opd (.pushBits opd)
  | 0x32 => decodePlain opd .serTree
  | 0x33 => .instr (.encSym opd)
  | 0x34 => decodePlain opd .encStream
  | 0x35 => decodePlain opd .flushPartial
  | 0x36 => decodePlain opd .finish
  | 0x40 => decodePlain opd .rdMagic
  | 0x41 => decodeCount opd (.pullBits opd)
  | 0x42 => decodePlain opd .deserTree
  | 0x43 => decodePlain opd .decSym
  | 0x44 => decodePlain opd .decStream
  | 0x50 => decodePlain opd .compress
  | 0x51 => decodePlain opd .decompress
  | _ => .malformed .reservedOpcode

/-- The decode of a word (R67). -/
def decode (w : Word) : Decoded :=
  if mbzField w = 0 then decodeOpc (opcField w) (opdField w) else .malformed .mbzNonzero

/-- The command the decoder reads from a row's bits; every bit from `nbits` up is 0. A command word is the
32 bits of one host write, so the bits are numbered as R61 numbers them. -/
def decodeTableWord (nbits w : Nat) : Option Instr :=
  match decode (BitVec.ofNat 32 (w % 2 ^ nbits)) with
  | .instr i => some i
  | .malformed _ => none

/-- The opcode of a command (R64). -/
def Instr.opc : Instr → Byte
  | .nop => 0x00
  | .softReset => 0x01
  | .freqClear => 0x10
  | .freqCount => 0x11
  | .buildTree => 0x20
  | .genCodes => 0x21
  | .wrMagic => 0x30
  | .pushBits _ => 0x31
  | .serTree => 0x32
  | .encSym _ => 0x33
  | .encStream => 0x34
  | .flushPartial => 0x35
  | .finish => 0x36
  | .rdMagic => 0x40
  | .pullBits _ => 0x41
  | .deserTree => 0x42
  | .decSym => 0x43
  | .decStream => 0x44
  | .compress => 0x50
  | .decompress => 0x51

/-- The operand field of a command, 0 where it takes none (R61, R62). -/
def Instr.opd : Instr → Byte
  | .pushBits n => n
  | .encSym sym => sym
  | .pullBits n => n
  | .nop | .softReset | .freqClear | .freqCount | .buildTree | .genCodes | .wrMagic | .serTree | .encStream
  | .flushPartial | .finish | .rdMagic | .deserTree | .decSym | .decStream | .compress | .decompress => 0

/-- `word = (OPD << 8) | OPC` (R68). -/
def encode (i : Instr) : Word := (i.opd.setWidth 32 <<< 8) ||| i.opc.setWidth 32

/-- The mnemonic of a command (R64). -/
def Instr.mnemonic : Instr → String
  | .nop => "NOP"
  | .softReset => "SOFT_RESET"
  | .freqClear => "FREQ_CLEAR"
  | .freqCount => "FREQ_COUNT"
  | .buildTree => "BUILD_TREE"
  | .genCodes => "GEN_CODES"
  | .wrMagic => "WR_MAGIC"
  | .pushBits _ => "PUSH_BITS"
  | .serTree => "SER_TREE"
  | .encSym _ => "ENC_SYM"
  | .encStream => "ENC_STREAM"
  | .flushPartial => "FLUSH_PARTIAL"
  | .finish => "FINISH"
  | .rdMagic => "RD_MAGIC"
  | .pullBits _ => "PULL_BITS"
  | .deserTree => "DESER_TREE"
  | .decSym => "DEC_SYM"
  | .decStream => "DEC_STREAM"
  | .compress => "COMPRESS"
  | .decompress => "DECOMPRESS"

/-- The assembler's line for a command: the mnemonic, then the operand in decimal where there is one (R68; the
other spellings of a symbol that R68 allows stand for the same number). -/
def Instr.asm : Instr → String
  | .pushBits n => "PUSH_BITS " ++ toString n.toNat
  | .pullBits n => "PULL_BITS " ++ toString n.toNat
  | .encSym sym => "ENC_SYM " ++ toString sym.toNat
  | i@(.nop) | i@(.softReset) | i@(.freqClear) | i@(.freqCount) | i@(.buildTree) | i@(.genCodes) | i@(.wrMagic)
  | i@(.serTree) | i@(.encStream) | i@(.flushPartial) | i@(.finish) | i@(.rdMagic) | i@(.deserTree) | i@(.decSym)
  | i@(.decStream) | i@(.compress) | i@(.decompress) => i.mnemonic

end Sys2Proof
end

