-- ==== Sys2Proof/Machine/Host.lean ====
section
/-! DEFINITION. The host's side: the register space (`20_memory.md` R41 to R48), the acceptance of a command
(`40_control.md` R72), and the notation of a host program (`30_encoding.md` R69, R70). -/

namespace Sys2Proof.Machine

/-! ### The register map -/

/-- A register of the register space (R42, R43). -/
inductive Reg where
  | ctrl
  | status
  | cmd
  | arg
  | result
  | tree
  | wb
  | rb0
  | rb1
  | freq (s : Fin 256)
  | node (i : Fin 511) (w : Fin 8)
  | codeLen (s : Fin 256)
  | codeBits (s : Fin 256) (j : Fin 8)
  deriving DecidableEq, Repr

/-- The register at an offset that is a multiple of 4; none where the offset is reserved (R42, R45). -/
def regAt (off : Offset) : Option Reg :=
  let o := off.toNat
  if o < 0x24 then
    match o / 4 with
    | 0 => some .ctrl
    | 1 => some .status
    | 2 => some .cmd
    | 3 => some .arg
    | 4 => some .result
    | 5 => some .tree
    | 6 => some .wb
    | 7 => some .rb0
    | _ => some .rb1
  else if 0x400 ≤ o ∧ o < 0x800 then some (.freq (Fin.ofNat 256 ((o - 0x400) / 4)))
  else if 0x1000 ≤ o ∧ o < 0x4FE0 then
    some (.node (Fin.ofNat 511 ((o - 0x1000) / 32)) (Fin.ofNat 8 ((o - 0x1000) / 4 % 8)))
  else if 0x6000 ≤ o ∧ o < 0x6400 then some (.codeLen (Fin.ofNat 256 ((o - 0x6000) / 4)))
  else if 0x7000 ≤ o ∧ o < 0x9000 then
    some (.codeBits (Fin.ofNat 256 ((o - 0x7000) / 32)) (Fin.ofNat 8 ((o - 0x7000) / 4 % 8)))
  else none

/-- The offset of a register (R42). -/
def Reg.offset : Reg → Offset
  | .ctrl => 0x0000
  | .status => 0x0004
  | .cmd => 0x0008
  | .arg => 0x000C
  | .result => 0x0010
  | .tree => 0x0014
  | .wb => 0x0018
  | .rb0 => 0x001C
  | .rb1 => 0x0020
  | .freq s => BitVec.ofNat 16 (0x0400 + 4 * s.val)
  | .node i w => BitVec.ofNat 16 (0x1000 + 32 * i.val + 4 * w.val)
  | .codeLen s => BitVec.ofNat 16 (0x6000 + 4 * s.val)
  | .codeBits s j => BitVec.ofNat 16 (0x7000 + 32 * s.val + 4 * j.val)

/-- Word w of a node slot (R43). -/
def Node.word (n : Node) (w : Nat) : Word :=
  match w with
  | 0 => flagAt 0 n.valid ||| flagAt 1 n.leaf ||| flagAt 2 n.side ||| fieldAt 8 n.sym ||| fieldAt 16 n.minSym
  | 1 => fieldAt 0 n.parent
  | 2 => fieldAt 0 n.c0
  | 3 => fieldAt 0 n.c1
  | 4 => n.w.extractLsb' 0 32
  | 5 => fieldAt 0 (n.w.extractLsb' 32 8)
  | _ => 0

/-- `TREE` (R42). -/
def treeWord (c : Core) : Word := fieldAt 0 c.root ||| fieldAt 16 c.nleaf

/-- `WB` (R42). -/
def wbWord (c : Core) : Word := fieldAt 0 c.wbAcc ||| fieldAt 8 c.wbCnt

/-- `RB0` (R42). -/
def rb0Word (c : Core) : Word :=
  fieldAt 0 c.rbCur ||| fieldAt 8 c.rbPos ||| fieldAt 12 (BitVec.ofNat 4 c.rbLim) ||| fieldAt 16 c.rbLa0
    ||| fieldAt 24 c.rbLa1

/-- `RB1` (R42). -/
def rb1Word (c : Core) : Word := flagAt 0 c.rbLa1V ||| flagAt 1 c.rbFinal ||| flagAt 2 c.rbEnd

/-- What a register holds, by the rules of the state (R42, R43); `CMD` reads 0 (R46). -/
def regWord (r : Reg) (s : State) : Word :=
  match r with
  | .ctrl => ctrlWord s
  | .status => statusWord s
  | .cmd => 0
  | .arg => s.core.arg
  | .result => s.core.result
  | .tree => treeWord s.core
  | .wb => wbWord s.core
  | .rb0 => rb0Word s.core
  | .rb1 => rb1Word s.core
  | .freq i => s.core.freq[i]
  | .node i w => s.core.node[i].word w.val
  | .codeLen i => fieldAt 0 s.core.codeLen[i]
  | .codeBits i j => s.core.codeBits[i].extractLsb' (224 - 32 * j.val) 32

/-- The bits of a register that are not reserved (R42, R43): the others read 0 (R45). -/
def Reg.definedBits : Reg → Word
  | .ctrl => 0x00000001
  | .status => 0x00FF1FFF
  | .cmd => 0x00000000
  | .arg => 0xFFFFFFFF
  | .result => 0xFFFFFFFF
  | .tree => 0x01FF01FF
  | .wb => 0x000007FF
  | .rb0 => 0xFFFFFFFF
  | .rb1 => 0x00000007
  | .freq _ => 0xFFFFFFFF
  | .node _ w =>
    match w.val with
    | 0 => 0x00FFFF07
    | 1 => 0x000001FF
    | 2 => 0x000001FF
    | 3 => 0x000001FF
    | 4 => 0xFFFFFFFF
    | 5 => 0x000000FF
    | _ => 0x00000000
  | .codeLen _ => 0x000000FF
  | .codeBits _ _ => 0xFFFFFFFF

/-! ### Host reads -/

/-- Count one more draw. -/
def State.drew (s : State) : State := { s with ports := { s.ports with draws := s.ports.draws + 1 } }

/-- A read of a register: the value, and the state with its draws counted. `CMD` reads 0 (R46). While `BUSY` is 1 (R37)
and after an error (R36, R145) the unspecified bits of the other registers are a draw, and of `STATUS` the mirror bits
after an error; reserved bits read 0 always (R45; assumption 5). Otherwise the register's own word. No read changes any
other state (R46). -/
def readReg (r : Reg) (s : State) : Word × State :=
  match r with
  | .ctrl => (ctrlWord s, s)
  | .status =>
    if s.err then
      ((statusWord s &&& statusDefined) ||| (Config.freeWord s.ports.draws &&& statusMirrors), s.drew)
    else (statusWord s, s)
  | .cmd => (0, s)
  | r =>
    if s.busy || s.err then (Config.freeWord s.ports.draws &&& r.definedBits, s.drew)
    else (regWord r s, s)

/-- Whether an access is supported: 32 bits, at a multiple of 4 (R44). -/
def supported (off : Offset) (bytes : Nat) : Bool := bytes == 4 && off.toNat % 4 == 0

/-- `RegRead(off)` of `bytes` bytes (R42, R44, R45): the value, and the state after it. -/
def regRead (off : Offset) (bytes : Nat) (s : State) : Word × State :=
  if supported off bytes then
    match regAt off with
    | some r => readReg r s
    | none => (0, s)
  else (0, s)

/-! ### Host writes -/

/-- Take a command word: `PENDING <- w; BUSY <- 1; DONE <- 0; LAST_OPC <- w[7:0]` (R72). -/
def accept (w : Word) (s : State) : State :=
  { s with pending := w, busy := true, done := false, lastOpc := w.extractLsb' 0 8 }

/-- A write to `CMD` (R71, R72): taken, or dropped while a command is in flight and, in the FAILED state, for every
word but the exact `NOP` and `SOFT_RESET`. -/
def issue (w : Word) (s : State) : State :=
  if s.busy then { s with cmdLost := true }
  else if s.err && w != 0x00000000 && w != 0x00000001 then { s with cmdLost := true }
  else accept w s

/-- A write to `STATUS` (R21): 1 clears `DONE` and `CMD_LOST`. -/
def writeStatus (v : Word) (s : State) : State :=
  { s with done := s.done && !v.getLsbD 1, cmdLost := s.cmdLost && !v.getLsbD 3 }

/-- A write to `CTRL` (R20). -/
def writeCtrl (v : Word) (s : State) : State := { s with ie := v.getLsbD 0 }

/-- A write to a register (R42, R45 to R48). -/
def writeReg (r : Reg) (v : Word) (s : State) : State :=
  match r with
  | .ctrl => writeCtrl v s
  | .status => writeStatus v s
  | .cmd => issue v s
  | .arg => if s.busy then s else { s with core := { s.core with arg := v } }
  | .freq i => if s.busy then s else { s with core := { s.core with freq := s.core.freq.set i.val v i.isLt } }
  | .result | .tree | .wb | .rb0 | .rb1 => s
  | .node _ _ | .codeLen _ | .codeBits _ _ => s

/-- `RegWrite(off, v)` of `bytes` bytes (R42, R44, R45). -/
def regWrite (off : Offset) (bytes : Nat) (v : Word) (s : State) : State :=
  if supported off bytes then
    match regAt off with
    | some r => writeReg r v s
    | none => s
  else s

/-! ### Host programs -/

/-- `RD <reg>` (R69). -/
def rd (r : Reg) : Event := .read r.offset 4

/-- `WR <reg>, <v>` (R69). -/
def wr (r : Reg) (v : Word) : Event := .write r.offset 4 v

/-- A command line: `WR CMD, <word>`, then `WAIT`, which lasts until the core's step is done (R69). -/
def commandLine (w : Word) : List Event := [wr .cmd w, .core]

/-- `PUSHB n, v` (R70). -/
def pushbLine (n : Byte) (v : Word) : List Event := wr .arg v :: commandLine (encode (.pushBits n))

/-- `LOADF s, v` (R70). -/
def loadfLine (i : Fin 256) (v : Word) : List Event := [wr (.freq i) v]

/-- `CLRDONE` (R70). -/
def clrdoneLine : List Event := [wr .status 0x00000002]

/-- `CLRLOST` (R70). -/
def clrlostLine : List Event := [wr .status 0x00000008]

end Sys2Proof.Machine
end

