-- ==== Sys2Proof/Machine/Step.lean ====
section
/-! DEFINITION. One step: the next event of the global order of host accesses and core steps (`20_memory.md` R57). -/

namespace Sys2Proof.Machine

/-- The core's step (R73): decode the word in `PENDING` and execute it; a malformed word raises `INVALID_ARGUMENT`
(R63, R75). -/
def coreStep (s : State) : Host.Outcome State Fault Refusal :=
  match decode s.pending with
  | .instr i => exec i s
  | .malformed _ => .next (raise .invalidArgument s)

/-- One step. The agenda says which agent moves; with nothing on it the core moves whenever it can (R73, R79), and
otherwise nothing happens (R159). A core event while `BUSY` is 0 finds no step enabled and passes. -/
def step (s : State) : Host.Outcome State Fault Refusal :=
  match s.agenda with
  | [] => if s.busy then coreStep s else .next s
  | .core :: rest =>
    if s.busy then coreStep { s with agenda := rest } else .next { s with agenda := rest }
  | .read off bytes :: rest =>
    let (v, t) := regRead off bytes { s with agenda := rest }
    .next { t with replies := t.replies ++ [v] }
  | .write off bytes v :: rest => .next (regWrite off bytes v { s with agenda := rest })
  | .hardReset :: rest => .next (hardReset { s with agenda := rest })

/-- The state in which the very next step runs the command word w: w is accepted into `PENDING` as R72 says (HCC has
no memory to fetch from, R19, R59), and the core moves next (assumption 7). -/
def State.withFetchWord (s : State) (nbits w : Nat) : State :=
  accept (BitVec.ofNat 32 (w % 2 ^ nbits)) { s with agenda := .core :: s.agenda }

end Sys2Proof.Machine
end

