-- ==== Sys2Proof/Safety.lean ====
section
/-! DEFINITION. The terms in which claims are made: the opcode map's columns, what a command may change, the bit
streams of the writer and the reader, trees and their codes as mathematical objects, the compressed file, and the
invariant of the machine. Nothing here is used by the machine. -/

namespace Sys2Proof.Machine

/-! ### The opcode map's columns (`30_encoding.md` R64) -/

/-- The commands that need the port IN (R64). -/
def needsIn : Instr → Bool
  | .freqCount | .encStream | .rdMagic | .pullBits _ | .deserTree | .decSym | .decStream | .compress | .decompress => true
  | .nop | .softReset | .freqClear | .buildTree | .genCodes | .wrMagic | .pushBits _ | .serTree | .encSym _
  | .flushPartial | .finish => false

/-- The commands that need the port OUT (R64). -/
def needsOut : Instr → Bool
  | .wrMagic | .pushBits _ | .serTree | .encSym _ | .encStream | .flushPartial | .finish | .decStream | .compress
  | .decompress => true
  | .nop | .softReset | .freqClear | .freqCount | .buildTree | .genCodes | .rdMagic | .pullBits _ | .deserTree
  | .decSym => false

/-- The state prerequisite of a command (R64). -/
abbrev Needs : Instr → Core → Prop
  | .genCodes, c => c.treeV = true ∧ c.treeSrc = false
  | .wrMagic, c => c.wbCnt = 0
  | .serTree, c => c.treeV = true
  | .encSym _, c => c.codesV = true
  | .encStream, c => c.codesV = true
  | .pullBits _, c => c.hdrOk = true
  | .deserTree, c => c.hdrOk = true
  | .decSym, c => c.hdrOk = true ∧ c.treeV = true
  | .decStream, c => c.hdrOk = true ∧ c.treeV = true
  | .compress, c => c.wbCnt = 0
  | .nop, _ | .softReset, _ | .freqClear, _ | .freqCount, _ | .buildTree, _ | .pushBits _, _ | .flushPartial, _
  | .finish, _ | .rdMagic, _ | .decompress, _ => True

/-- Every port a command needs is connected (R49, R64). -/
abbrev PortsReady (i : Instr) (s : State) : Prop :=
  (needsIn i = true → s.launch.inPresent = true) ∧ (needsOut i = true → s.launch.outPresent = true)

/-- The opcodes of the commands that can raise an error kind: the column 'raised by' of R139, and for
`SEQUENCE_ERROR` the commands with a prerequisite (R64, R141). -/
def raisers : ErrKind → List Byte
  | .invalidArgument =>
    [0x00, 0x01, 0x10, 0x11, 0x20, 0x21, 0x30, 0x31, 0x32, 0x33, 0x34, 0x35, 0x36, 0x40, 0x41, 0x42, 0x43, 0x44, 0x50, 0x51]
  | .outOfMemory => []
  | .writeFailure => [0x30, 0x31, 0x32, 0x33, 0x34, 0x35, 0x36, 0x44, 0x50, 0x51]
  | .invalidHeader => [0x40, 0x51]
  | .corruptData => [0x40, 0x41, 0x42, 0x43, 0x44, 0x51]
  | .emptyInput => [0x20, 0x50]
  | .sequenceError => [0x21, 0x30, 0x32, 0x33, 0x34, 0x41, 0x42, 0x43, 0x44, 0x50]
  | .countOverflow => [0x11, 0x50]
  | .noCode => [0x33, 0x34, 0x50]

/-! ### What a step leaves alone -/

/-- t is s after a command that went through: completion (R74), and only the core state behind the flags and the
ports may differ besides. -/
abbrev Completed (s t : State) : Prop := t = complete { s with core := t.core, ports := t.ports }

/-- t is s after error e: error entry and completion (R74, R144). The core state behind `CTRL` and the stored
`STATUS` fields is unspecified (R36), and the claim says nothing of it. -/
abbrev Failed (e : ErrKind) (s t : State) : Prop :=
  t = { s with
    busy := false, pending := 0, done := true, err := true, errcode := e.code, core := t.core, ports := t.ports }

/-- Only the input's position may differ. -/
abbrev InputOnly (p q : Ports) : Prop := q = { p with inPos := q.inPos }

/-- Only what was written, and the sink's answers used up, may differ. -/
abbrev OutputOnly (p q : Ports) : Prop := q = { p with outData := q.outData, sinkPlan := q.sinkPlan, draws := q.draws }

/-- Everything but the input's contents may differ. -/
abbrev InOutOnly (p q : Ports) : Prop :=
  q = { p with inPos := q.inPos, outData := q.outData, sinkPlan := q.sinkPlan, draws := q.draws }

/-- The next n answers of the sink are `ok`: the claims about a run in which every write and flush succeeds (R53). -/
abbrev OksAhead (n : Nat) (p : Ports) : Prop := n ≤ p.sinkPlan.length ∧ (p.sinkPlan.take n).all (· == .ok) = true

/-- The core state a command writes on success (R40): everything else is as before. -/
abbrev Frame : Instr → Core → Core → Prop
  | .nop, c, d => d = c
  | .softReset, _, d => d = Core.zero
  | .freqClear, c, d => d = { c with freq := d.freq }
  | .freqCount, c, d =>
    d = { c with freq := d.freq, hdrOk := false, rbCur := 0, rbPos := 0, rbLa0 := 0, rbLa1 := 0, rbLa1V := false }
  | .buildTree, c, d => d = { c with node := d.node, root := d.root, nleaf := d.nleaf, treeV := true, treeSrc := false, codesV := false }
  | .genCodes, c, d => d = { c with codeLen := d.codeLen, codeBits := d.codeBits, codesV := true }
  | .wrMagic, c, d => d = { c with wbAcc := d.wbAcc, wbCnt := d.wbCnt }
  | .pushBits _, c, d => d = { c with wbAcc := d.wbAcc, wbCnt := d.wbCnt }
  | .serTree, c, d => d = { c with wbAcc := d.wbAcc, wbCnt := d.wbCnt }
  | .encSym _, c, d => d = { c with wbAcc := d.wbAcc, wbCnt := d.wbCnt }
  | .flushPartial, c, d => d = { c with wbAcc := d.wbAcc, wbCnt := d.wbCnt }
  | .finish, c, d => d = { c with wbAcc := d.wbAcc, wbCnt := d.wbCnt }
  | .encStream, c, d =>
    d = { c with wbAcc := d.wbAcc, wbCnt := d.wbCnt, hdrOk := false, rbCur := 0, rbPos := 0, rbLa0 := 0, rbLa1 := 0, rbLa1V := false }
  | .rdMagic, c, d =>
    d = { c with hdrOk := true, rbCur := d.rbCur, rbPos := d.rbPos, rbLa0 := d.rbLa0, rbLa1 := d.rbLa1, rbLa1V := d.rbLa1V }
  | .pullBits _, c, d =>
    d = { c with rbCur := d.rbCur, rbPos := d.rbPos, rbLa0 := d.rbLa0, rbLa1 := d.rbLa1, rbLa1V := d.rbLa1V, result := d.result }
  | .deserTree, c, d =>
    d = { c with rbCur := d.rbCur, rbPos := d.rbPos, rbLa0 := d.rbLa0, rbLa1 := d.rbLa1, rbLa1V := d.rbLa1V, node := d.node, root := d.root, nleaf := d.nleaf, treeV := true, treeSrc := true, codesV := false }
  | .decSym, c, d =>
    d = { c with rbCur := d.rbCur, rbPos := d.rbPos, rbLa0 := d.rbLa0, rbLa1 := d.rbLa1, rbLa1V := d.rbLa1V, result := d.result }
  | .decStream, c, d =>
    d = { c with rbCur := d.rbCur, rbPos := d.rbPos, rbLa0 := d.rbLa0, rbLa1 := d.rbLa1, rbLa1V := d.rbLa1V }
  | .compress, c, d =>
    d = { d with arg := c.arg, result := c.result, treeV := true, treeSrc := false, codesV := true, wbAcc := 0, wbCnt := 0, hdrOk := false, rbCur := 0, rbPos := 0, rbLa0 := 0, rbLa1 := 0, rbLa1V := false }
  | .decompress, c, d =>
    d = { d with arg := c.arg, result := c.result, freq := c.freq, codeLen := c.codeLen, codeBits := c.codeBits, wbAcc := c.wbAcc, wbCnt := c.wbCnt, treeV := true, treeSrc := true, codesV := false, hdrOk := true }

/-- The ports a command moves (R50 to R53, R64): a command without OUT writes nothing and asks the sink nothing, one
without IN reads nothing. -/
abbrev PortFrame (i : Instr) (p q : Ports) : Prop :=
  (needsIn i = false → q.inPos = p.inPos) ∧
  (needsOut i = false → q.outData = p.outData ∧ q.sinkPlan = p.sinkPlan)

/-- The next k answers of the sink are `ok` and the one after them is `fail` (R53). -/
abbrev FailsAfter (k : Nat) (p : Ports) : Prop :=
  ∃ (kept : List Byte) (rest : List SinkAnswer), p.sinkPlan = List.replicate k .ok ++ .fail kept :: rest

/-- The offsets R42 reserves, among the multiples of 4. -/
abbrev ReservedOffset (off : Offset) : Prop :=
  (0x0024 ≤ off.toNat ∧ off.toNat ≤ 0x03FC) ∨ (0x0800 ≤ off.toNat ∧ off.toNat ≤ 0x0FFC) ∨
  (0x4FE0 ≤ off.toNat ∧ off.toNat ≤ 0x5FFC) ∨ (0x6400 ≤ off.toNat ∧ off.toNat ≤ 0x6FFC) ∨
  (0x9000 ≤ off.toNat ∧ off.toNat ≤ 0xFFFC)

/-! ### Bit sequences (R7, R54) -/

/-- The bits of a byte, most significant first. -/
def byteBits (b : Byte) : List Bool :=
  [b.getLsbD 7, b.getLsbD 6, b.getLsbD 5, b.getLsbD 4, b.getLsbD 3, b.getLsbD 2, b.getLsbD 1, b.getLsbD 0]

/-- The low n bits of a word, bit n-1 first (R100). -/
def lowBits : Nat → Word → List Bool
  | 0, _ => []
  | n + 1, v => v.getLsbD n :: lowBits n v

/-- The number a bit sequence spells, its first bit most significant (R109). -/
def bitsValue (bs : List Bool) : Nat := bs.foldl (fun n b => 2 * n + b.toNat) 0

/-- A byte from at most 8 bits, padded with 0 (R54). -/
def byteOf (bs : List Bool) : Byte := BitVec.ofNat 8 (bitsValue ((bs ++ List.replicate 8 false).take 8))

/-- The first k bytes of a packed bit sequence (R54). -/
def packBytes : Nat → List Bool → List Byte
  | 0, _ => []
  | k + 1, bs => byteOf (bs.take 8) :: packBytes k (bs.drop 8)

/-- `pack`: bit i goes to byte i div 8 at bit 7 - (i mod 8), and the last byte is padded with 0 (R136). -/
def pack (bs : List Bool) : List Byte := packBytes ((bs.length + 7) / 8) bs

/-- The footer after a bit sequence (R125, R136). -/
def footer (bs : List Bool) : Byte := BitVec.ofNat 8 (2 ^ ((8 - bs.length % 8) % 8))

/-- The bits in the writer's Bit Buffer (R30). -/
def buffered (c : Core) : List Bool := (byteBits c.wbAcc).take c.wbCnt.toNat

/-- Every bit sent so far: the bytes written to OUT, then the bits still buffered (R54, R102). -/
def bitsWritten (s : State) : List Bool := s.ports.outData.flatMap byteBits ++ buffered s.core

/-! ### The framed stream (`44_bit_reader.md` R104) -/

/-- The valid bits of the stream D[0], ..., D[M-1]: all of each data byte but the last, and of the last as many as the
footer says. -/
def validBits : List Byte → List Bool
  | [] => []
  | [_] => []
  | [d, f] => (byteBits d).take ((footerCount f).getD 0)
  | d :: e :: f :: rest => byteBits d ++ validBits (e :: f :: rest)

/-- The stream from the reader's current byte on (R31). -/
def streamFrom (w : Work) : List Byte :=
  w.core.rbCur :: w.core.rbLa0 :: (if w.core.rbLa1V then w.core.rbLa1 :: w.ports.inData.drop w.ports.inPos else [])

/-- The valid bits the reader has still to give (R104, R110). -/
def bitsLeft (w : Work) : List Bool := (validBits (streamFrom w)).drop w.core.rbPos.toNat

/-- The stream ends in a legal footer (R105). -/
abbrev GoodFooter (d : List Byte) : Prop := (d.getLast?.bind footerCount).isSome = true

/-! ### Trees -/

/-- The shape and the leaf bytes of a code tree (R14, R116). -/
inductive Tree where
  | leaf (b : Byte)
  | node (zero one : Tree)
  deriving DecidableEq, Repr

/-- The tree description: a `1` and eight bits for a leaf, a `0` and both subtrees for an internal node (R116). -/
def Tree.bits : Tree → List Bool
  | .leaf b => true :: byteBits b
  | .node z o => false :: (z.bits ++ o.bits)

/-- The number of leaves. -/
def Tree.leaves : Tree → Nat
  | .leaf _ => 1
  | .node z o => z.leaves + o.leaves

/-- The number of internal nodes. -/
def Tree.internals : Tree → Nat
  | .leaf _ => 0
  | .node z o => 1 + z.internals + o.internals

/-- Each leaf's byte with its path from the root: 0 to a `C0` child, 1 to a `C1` child (R92). -/
def Tree.paths : Tree → List (Byte × List Bool)
  | .leaf b => [(b, [])]
  | .node z o => z.paths.map (fun p => (p.1, false :: p.2)) ++ o.paths.map (fun p => (p.1, true :: p.2))

/-- Each leaf's byte with its code: the path, or the single bit 0 where the tree is one leaf (R92, R93). -/
def Tree.codes : Tree → List (Byte × List Bool)
  | .leaf b => [(b, [false])]
  | .node z o => (Tree.node z o).paths

/-- The code of a byte, empty where the tree has no leaf for it. -/
def Tree.codeOf (t : Tree) (b : Byte) : List Bool := ((t.codes.find? fun p => p.1 == b).map Prod.snd).getD []

/-- Walk an internal tree down to a leaf, one bit per edge (R127). -/
def Tree.descend : Tree → List Bool → Option (Byte × List Bool)
  | .leaf b, bs => some (b, bs)
  | .node _ _, [] => none
  | .node z o, b :: bs => if b then o.descend bs else z.descend bs

/-- One symbol off a bit sequence (R127): none where the bits end inside a code, or a 1 stands under a single leaf. -/
def Tree.decode : Tree → List Bool → Option (Byte × List Bool)
  | .leaf _, [] => none
  | .leaf b, x :: bs => if x then none else some (b, bs)
  | .node z o, bs => (Tree.node z o).descend bs

/-- The tree under a slot of the arena, of at most d levels. -/
def Core.treeAt (c : Core) : Nat → Slot → Option Tree
  | 0, _ => none
  | d + 1, i =>
    if i = Config.nullSlot then none
    else if (c.nodeAt i).leaf then some (.leaf (c.nodeAt i).sym)
    else
      match c.treeAt d (c.nodeAt i).c0, c.treeAt d (c.nodeAt i).c1 with
      | some z, some o => some (.node z o)
      | _, _ => none

/-- The tree in the arena (R24, R25). -/
def Core.tree (c : Core) : Option Tree := c.treeAt Config.maxLevels c.root

/-- A tree stands in preorder from slot i on: its root at i, then all of its zero subtree, then all of its one subtree
(R27). -/
def laidOut (c : Core) : Tree → Nat → Prop
  | .leaf b, i => (c.nodeAt (BitVec.ofNat 9 i)).leaf = true ∧ (c.nodeAt (BitVec.ofNat 9 i)).sym = b
  | .node z o, i =>
    (c.nodeAt (BitVec.ofNat 9 i)).leaf = false ∧
    (c.nodeAt (BitVec.ofNat 9 i)).c0.toNat = i + 1 ∧ laidOut c z (i + 1) ∧
    (c.nodeAt (BitVec.ofNat 9 i)).c1.toNat = i + 2 * z.leaves ∧ laidOut c o (i + 2 * z.leaves)

/-- The number of valid leaves in the arena. -/
def Core.leafCount (c : Core) : Nat := (leafSlots c).length

/-- The code table is the one of tree t: every leaf's code, and no other (R91 to R93). -/
def codesFrom (t : Tree) (c : Core) : Bool :=
  allSymbols.all fun b => c.codeOf b == t.codeOf b

/-! ### The tree of a set of counts (`41_tree_builder.md` R83, R84, R87) -/

/-- A subtree with its key. -/
structure Entry where
  weight : Nat
  minSym : Nat
  tree : Tree
  deriving DecidableEq, Repr

/-- The key order (R83). -/
def Entry.before (a b : Entry) : Bool := a.weight < b.weight || (a.weight == b.weight && a.minSym < b.minSym)

/-- Put an entry in its place in a worklist kept in key order (R84 'Insert the new node back and re-sort'). -/
def insertEntry (e : Entry) : List Entry → List Entry
  | [] => [e]
  | x :: xs => if e.before x then e :: x :: xs else x :: insertEntry e xs

/-- The parent of two entries: the first becomes the 0 child (R84). -/
def mergeEntries (a b : Entry) : Entry :=
  { weight := a.weight + b.weight, minSym := min a.minSym b.minSym, tree := .node a.tree b.tree }

/-- Merge the two first entries of an ordered worklist until one is left (R84). The first argument bounds the merges. -/
def mergeSorted : Nat → List Entry → Option Tree
  | _, [] => none
  | _, [e] => some e.tree
  | 0, _ :: _ :: _ => none
  | n + 1, a :: b :: rest => mergeSorted n (insertEntry (mergeEntries a b) rest)

/-- The tree of a set of counts: none where every count is 0 (R84). -/
def treeOf (count : Byte → Nat) : Option Tree :=
  let syms := allSymbols.filter fun b => count b != 0
  mergeSorted syms.length
    (syms.foldr (fun b l => insertEntry { weight := count b, minSym := b.toNat, tree := .leaf b } l) [])

/-! ### The compressed file (`47_drivers.md` R136) -/

/-- The tree and payload bits of an input. -/
def fileBits (t : Tree) (x : List Byte) : List Bool := t.bits ++ x.flatMap t.codeOf

/-- The file of an input under a tree. -/
def fileWith (magic : Vector Byte 4) (t : Tree) (x : List Byte) : List Byte :=
  magic.toList ++ pack (fileBits t x) ++ [footer (fileBits t x)]

/-- The file of an input: none for the empty one (R136). -/
def fileOf (magic : Vector Byte 4) (x : List Byte) : Option (List Byte) :=
  (treeOf fun b => x.count b).map fun t => fileWith magic t x

/-! ### The invariant -/

/-- The bits of `WB_ACC` beyond `WB_CNT` are 0 (R30). -/
abbrev WriterOk (c : Core) : Prop := ((byteBits c.wbAcc).drop c.wbCnt.toNat).all (· == false) = true

/-- While the reader is open the cursor is within the valid bits, and at 8 only on the final byte, whose footer is
legal (R32, R106, R107); while it is closed the window is clear (R112). -/
abbrev ReaderOk (c : Core) : Prop :=
  if c.hdrOk then
    if c.rbLa1V then c.rbPos.toNat < 8 else (footerCount c.rbLa0).any (fun n => c.rbPos.toNat ≤ n) = true
  else c.rbCur = 0 ∧ c.rbPos = 0 ∧ c.rbLa0 = 0 ∧ c.rbLa1 = 0 ∧ c.rbLa1V = false

/-- A slot that holds no node has every field 0 (R25). -/
abbrev SlotsOk (c : Core) : Prop := c.node.toList.all (fun n => n.valid || n == Node.empty) = true

/-- Slot i's node is joined to its parent and its children as R25 and R26 say. -/
def linked (c : Core) (i : Slot) : Bool :=
  let n := c.nodeAt i
  (if i == c.root then n.parent == Config.nullSlot && !n.side
   else n.parent != Config.nullSlot && (c.nodeAt n.parent).valid && !(c.nodeAt n.parent).leaf &&
     (if n.side then (c.nodeAt n.parent).c1 == i else (c.nodeAt n.parent).c0 == i)) &&
  (if n.leaf then n.c0 == Config.nullSlot && n.c1 == Config.nullSlot
   else n.c0 != Config.nullSlot && n.c1 != Config.nullSlot && (c.nodeAt n.c0).valid && (c.nodeAt n.c1).valid &&
     (c.nodeAt n.c0).parent == i && (c.nodeAt n.c1).parent == i && !(c.nodeAt n.c0).side && (c.nodeAt n.c1).side)

/-- The slots that hold a node, ascending. -/
def validSlots (c : Core) : List Slot := ((allSlots.zip c.node.toList).filter fun p => p.2.valid).map Prod.fst

/-- While `TREE_V` is 1 the arena holds one complete tree: every node is linked, the root leads down to leaves within
256 levels, every leaf leads up to the root, and `NLEAF` counts the leaves; in a built tree a leaf's slot is its
symbol (R24 to R27). -/
abbrev TreeOk (c : Core) : Prop :=
  c.treeV = true →
    c.root ≠ Config.nullSlot ∧ (c.nodeAt c.root).valid = true ∧
    (validSlots c).all (linked c) = true ∧ c.tree.isSome = true ∧
    (leafSlots c).all (fun i => (climb c Config.maxLevels i).isSome) = true ∧
    c.nleaf.toNat = c.leafCount ∧
    (c.treeSrc = false → (leafSlots c).all (fun i => i == leafSlot (c.nodeAt i).sym) = true)

/-- The code bits beyond a code's length are 0 (R28); while `CODES_V` is 1 the arena holds a built tree and the table
is its table (R29). -/
abbrev CodesOk (c : Core) : Prop :=
  allSymbols.all (fun b => (c.codeBitsOf b).toNat % 2 ^ (256 - (c.codeLenOf b).toNat) == 0) = true ∧
  (c.codesV = true → c.treeV = true ∧ c.treeSrc = false ∧ (c.tree.any fun t => codesFrom t c) = true)

/-- The rules of the core state that an error leaves unspecified. -/
abbrev CoreInv (c : Core) : Prop := WriterOk c ∧ ReaderOk c ∧ SlotsOk c ∧ TreeOk c ∧ CodesOk c

/-- The error codes HCC produces (R139, R142). -/
def producedCodes : List (BitVec 4) := [1, 3, 4, 5, 6, 7, 8, 9]

/-- `STATUS` and `PENDING` go together (R21, R22, R72, R74, R145, R147). -/
abbrev StatusOk (s : State) : Prop :=
  (s.busy = false → s.pending = 0) ∧
  (s.busy = true → s.done = false ∧ s.lastOpc = s.pending.extractLsb' 0 8) ∧
  (s.busy = true → s.err = true → s.pending = 0x00000000 ∨ s.pending = 0x00000001) ∧
  (s.err = false → s.errcode = 0) ∧
  (s.err = true → s.errcode ∈ producedCodes)

/-- The invariant of the machine: in the FAILED state nothing is said of the core state behind the flags (R36). -/
abbrev Inv (s : State) : Prop :=
  StatusOk s ∧ s.ports.inPos ≤ s.ports.inData.length ∧ (s.err = false → CoreInv s.core)

end Sys2Proof.Machine
end

