-- ==== Sys2Proof/Certificates/Slice0/Obligations.lean ====
section
/-! DEFINITION. The statements about the model, one `def Obligations.<Name> : Prop` each (`OBLIGATIONS.json` lists
them). A statement that a command completes has, as its conclusion, that `exec` answers a next state, with what that
state holds and what it leaves alone. -/

open Sys2Proof Sys2Proof.Machine

/-! ### The command word (`30_encoding.md`) -/

/-- R67, R68: the decoder reads back every well-formed command from its encoding. -/
def Obligations.DecodeReadsEncode : Prop :=
  ∀ i : Instr, i.wellFormed = true → decode (encode i) = .instr i

/-- R67: every word that decodes to a command is the encoding of that command, which is well-formed. -/
def Obligations.EncodeInvertsDecode : Prop :=
  ∀ (w : Word) (i : Instr), decode w = .instr i → i.wellFormed = true ∧ encode i = w

/-- The example words of R68, and one word of each family written out from R61 and R64. -/
def Obligations.ExampleWordsDecode : Prop :=
  decode 0x00000020 = .instr .buildTree ∧ decode 0x00000531 = .instr (.pushBits 5) ∧
  decode 0x00002041 = .instr (.pullBits 32) ∧ decode 0x00004133 = .instr (.encSym 0x41) ∧
  decode 0x00000001 = .instr .softReset ∧ decode 0x00000011 = .instr .freqCount ∧
  decode 0x00000021 = .instr .genCodes ∧ decode 0x00000042 = .instr .deserTree ∧
  decode 0x00000051 = .instr .decompress

/-- R63: which words are malformed, and that the core's step on an accepted one raises `INVALID_ARGUMENT` and has no
other effect. -/
def Obligations.MalformedWords : Prop :=
  (∀ w : Word, (∃ why, decode w = .malformed why) ↔
    w.toNat / 65536 ≠ 0 ∨
    w.toNat % 256 ∉ [0x00, 0x01, 0x10, 0x11, 0x20, 0x21, 0x30, 0x31, 0x32, 0x33, 0x34, 0x35, 0x36,
      0x40, 0x41, 0x42, 0x43, 0x44, 0x50, 0x51] ∨
    (w.toNat % 256 ∉ [0x31, 0x33, 0x41] ∧ w.toNat / 256 % 256 ≠ 0) ∨
    (w.toNat % 256 ∈ [0x31, 0x41] ∧ (w.toNat / 256 % 256 = 0 ∨ 32 < w.toNat / 256 % 256))) ∧
  (∀ (s : State) (why : Malformed), decode s.pending = .malformed why →
    ∃ t, coreStep s = .next t ∧ Failed .invalidArgument s t ∧
      t.ports = { s.ports with draws := t.ports.draws })

/-! ### The step -/

/-- R73: when the core is to move, `step` is `exec` of the command that `PENDING` decodes to, or, where that word is
malformed, the raise of `INVALID_ARGUMENT` (R63), and nothing is added around it but the event taken off the agenda; a
word placed by `withFetchWord` is accepted (R72) and runs next. The agenda and `withFetchWord` are the model's
(assumptions 3 and 7). -/
def Obligations.StepRunsDecodedCommand : Prop :=
  (∀ (s : State) (i : Instr), s.busy = true → s.agenda = [] → decode s.pending = .instr i → step s = exec i s) ∧
  (∀ (s : State) (i : Instr) (rest : List Event), s.busy = true → s.agenda = .core :: rest →
    decode s.pending = .instr i → step s = exec i { s with agenda := rest }) ∧
  (∀ (s : State) (i : Instr), i.wellFormed = true →
    step (s.withFetchWord 32 (encode i).toNat) = exec i (accept (encode i) s)) ∧
  (∀ (s : State) (why : Malformed), s.busy = true → s.agenda = [] → decode s.pending = .malformed why →
    ∃ t, step s = .next t ∧ Failed .invalidArgument s t ∧ t.ports = { s.ports with draws := t.ports.draws }) ∧
  (∀ (s : State) (why : Malformed) (rest : List Event), s.busy = true → s.agenda = .core :: rest →
    decode s.pending = .malformed why →
    ∃ t, step s = .next t ∧ Failed .invalidArgument { s with agenda := rest } t ∧
      t.ports = { s.ports with draws := t.ports.draws }) ∧
  (∀ (s : State) (w : Word) (why : Malformed), decode w = .malformed why →
    ∃ t, step (s.withFetchWord 32 w.toNat) = .next t ∧ Failed .invalidArgument (accept w s) t ∧
      t.ports = { s.ports with draws := t.ports.draws })

/-- R57, R159, R161: the other steps. With nothing to do the machine waits; a host access or a hardware reset on the
agenda takes effect alone, in the agenda's order; a core event finds nothing to do while `BUSY` is 0. The agenda and the
replies are the model's (assumption 3). -/
def Obligations.StepTakesEventsInOrder : Prop :=
  (∀ s : State, s.busy = false → s.agenda = [] → step s = .next s) ∧
  (∀ (s : State) (rest : List Event), s.busy = false → s.agenda = .core :: rest →
    step s = .next { s with agenda := rest }) ∧
  (∀ (s : State) (rest : List Event), s.agenda = .hardReset :: rest →
    step s = .next (hardReset { s with agenda := rest })) ∧
  (∀ (s : State) (off : Offset) (n : Nat) (v : Word) (rest : List Event), s.agenda = .write off n v :: rest →
    step s = .next (regWrite off n v { s with agenda := rest })) ∧
  (∀ (s : State) (off : Offset) (n : Nat) (rest : List Event), s.agenda = .read off n :: rest →
    ∃ t, step s = .next t ∧
      t = { s with
        agenda := rest
        replies := s.replies ++ [(regRead off n { s with agenda := rest }).1]
        ports := (regRead off n { s with agenda := rest }).2.ports })

/-! ### Control commands, acceptance, completion, checks, errors (`40_control.md`, `60_exceptions.md`) -/

/-- R76: `NOP` completes and does nothing else; the FAILED state accepts it, and `ERR` and `ERRCODE` stay. With `OPD` or
`MBZ` nonzero the word is malformed: executed, it raises `INVALID_ARGUMENT`, and in the FAILED state it is dropped. From
reset `NOP` leaves `STATUS` 0x00000002. -/
def Obligations.NopOnlyCompletes : Prop :=
  decode 0x00000000 = .instr .nop ∧
  (∀ s : State, ∃ t, exec .nop s = .next t ∧ t = { s with busy := false, pending := 0, done := true } ∧
    t.err = s.err ∧ t.errcode = s.errcode) ∧
  (∀ s : State, s.busy = false → s.err = true → regWrite 0x0008 4 0x00000000 s = accept 0x00000000 s) ∧
  (∀ s : State, s.pending.toNat % 256 = 0 → s.pending ≠ 0 →
    ∃ t, coreStep s = .next t ∧ Failed .invalidArgument s t) ∧
  (∀ (s : State) (w : Word), s.busy = false → s.err = true → w.toNat % 256 = 0 → w ≠ 0 →
    regWrite 0x0008 4 w s = { s with cmdLost := true }) ∧
  (∀ (l : Launch) (x : List Byte) (p : List SinkAnswer),
    ∃ t, exec .nop (accept 0x00000000 (State.launched l x p [])) = .next t ∧ statusWord t = 0x00000002)

/-- R77, R163: `SOFT_RESET` leaves every register but `CTRL` and `STATUS` reading 0, `CTRL` as it was, `STATUS`
0x00010002, the ports untouched, and IRQ equal to `CTRL.IE` until the host clears `DONE`; its word is 0x00000001. -/
def Obligations.SoftResetKeepsOnlyCtrl : Prop :=
  decode 0x00000001 = .instr .softReset ∧
  ∀ s : State, ∃ t, exec .softReset s = .next t ∧
    ctrlWord t = ctrlWord s ∧ statusWord t = 0x00010002 ∧
    (∀ r : Reg, r ≠ .ctrl → r ≠ .status → regWord r t = 0) ∧
    t.pending = 0 ∧ t.core = Core.zero ∧ t.ports = s.ports ∧ t.launch = s.launch ∧
    irq t = s.ie ∧ irq (regWrite 0x0004 4 0x00000002 t) = false ∧
    t.agenda = s.agenda ∧ t.replies = s.replies

/-- R161, R162: after a hardware reset, whatever came before and a pending command discarded, every register reads 0,
IRQ is 0, the ports are as they were, and the machine waits for a command; a launch starts in this state. -/
def Obligations.HardResetClearsCoreState : Prop :=
  (∀ s : State, (∀ r : Reg, regWord r (hardReset s) = 0) ∧ irq (hardReset s) = false ∧
    (hardReset s).busy = false ∧ (hardReset s).pending = 0 ∧ (hardReset s).core = Core.zero ∧
    (hardReset s).ports = s.ports ∧ (hardReset s).launch = s.launch ∧
    (s.agenda = [] → step (hardReset s) = .next (hardReset s))) ∧
  (∀ (l : Launch) (x : List Byte) (p : List SinkAnswer) (a : List Event),
    hardReset (State.launched l x p a) = State.launched l x p a ∧ (State.launched l x p a).ports.inPos = 0 ∧
    (State.launched l x p a).ports.outData = [])

/-- R72: a write to `CMD` is dropped with `CMD_LOST` while a command is in flight, and in the FAILED state unless it is
the word of `NOP` or `SOFT_RESET`; otherwise it is accepted. A dropped write changes nothing but `CMD_LOST`. -/
def Obligations.CommandAcceptance : Prop :=
  ∀ (s : State) (w : Word),
    (s.busy = true → regWrite 0x0008 4 w s = { s with cmdLost := true }) ∧
    (s.busy = false → s.err = true → w ≠ 0x00000000 → w ≠ 0x00000001 →
      regWrite 0x0008 4 w s = { s with cmdLost := true }) ∧
    (s.busy = false → (s.err = false ∨ w = 0x00000000 ∨ w = 0x00000001) →
      regWrite 0x0008 4 w s =
        { s with pending := w, busy := true, done := false, lastOpc := BitVec.ofNat 8 (w.toNat % 256) })

/-- R74: every executed command, malformed or not, with or without error, ends with `BUSY` 0, `PENDING` 0, `DONE` 1,
keeps the opcode of its word in `LAST_OPC`, and raises the IRQ when `CTRL.IE` is 1. -/
def Obligations.EveryCommandCompletes : Prop :=
  (∀ (i : Instr) (s t : State), exec i s = .next t →
    t.busy = false ∧ t.pending = 0 ∧ t.done = true ∧ (s.lastOpc = i.opc → t.lastOpc = i.opc) ∧
    t.ie = s.ie ∧ irq t = s.ie) ∧
  (∀ s t : State, coreStep s = .next t →
    t.busy = false ∧ t.pending = 0 ∧ t.done = true ∧
    (s.lastOpc = s.pending.extractLsb' 0 8 → t.lastOpc = s.lastOpc) ∧ t.ie = s.ie ∧ irq t = s.ie)

/-- R75: the checks in their order. A missing port raises `INVALID_ARGUMENT`, then a false prerequisite raises
`SEQUENCE_ERROR`; a command that fails a check makes no port access and writes no state other than by error entry.
(The decode check, which comes first, is in `MalformedWords`.) -/
def Obligations.ChecksInOrder : Prop :=
  (∀ (s : State) (why : Malformed), decode s.pending = .malformed why →
    ∃ t, coreStep s = .next t ∧ Failed .invalidArgument s t ∧ t.ports = { s.ports with draws := t.ports.draws }) ∧
  (∀ (i : Instr) (s : State), i.wellFormed = true → ¬ PortsReady i s →
    ∃ t, exec i s = .next t ∧ Failed .invalidArgument s t ∧ t.ports = { s.ports with draws := t.ports.draws }) ∧
  (∀ (i : Instr) (s : State), i.wellFormed = true → PortsReady i s → ¬ Needs i s.core →
    ∃ t, exec i s = .next t ∧ Failed .sequenceError s t ∧ t.ports = { s.ports with draws := t.ports.draws })

/-- R139, R143, R144: what an error records, and the code of each kind. -/
def Obligations.ErrorEntryRecordsKind : Prop :=
  (∀ (e : ErrKind) (s : State), Failed e s (raise e s) ∧ (raise e s).lastOpc = s.lastOpc ∧
    (raise e s).ports = { s.ports with draws := (raise e s).ports.draws }) ∧
  (ErrKind.invalidArgument.code = 1 ∧ ErrKind.outOfMemory.code = 2 ∧ ErrKind.writeFailure.code = 3 ∧
    ErrKind.invalidHeader.code = 4 ∧ ErrKind.corruptData.code = 5 ∧ ErrKind.emptyInput.code = 6 ∧
    ErrKind.sequenceError.code = 7 ∧ ErrKind.countOverflow.code = 8 ∧ ErrKind.noCode.code = 9)

/-- R139, R141: a command raises only the kinds that the table of error kinds lists for it, and then it ends by error
entry and completion. -/
def Obligations.ErrorsOnlyFromTheirCommands : Prop :=
  ∀ (i : Instr) (s t : State), s.err = false → exec i s = .next t → t.err = true →
    ∃ e : ErrKind, i.opc ∈ raisers e ∧ Failed e s t

/-- R142: `OUT_OF_MEMORY` keeps its code and is never raised. -/
def Obligations.OutOfMemoryNeverRaised : Prop :=
  ErrKind.outOfMemory.code = 2 ∧
  ∀ s t : State, s.errcode ≠ 2 → step s = .next t → t.errcode ≠ 2

/-- R145, R146, R147: in the FAILED state a step leaves `ERR` and `ERRCODE` as they are, or it is a hardware reset or
the pending `SOFT_RESET`, and then the error is cleared and the core state is at its reset value. The agenda, on which a
hardware reset stands, is the model's (assumption 3). -/
def Obligations.FailedUntilReset : Prop :=
  ∀ s t : State, Inv s → s.err = true → step s = .next t →
    (t.err = true ∧ t.errcode = s.errcode) ∨
    (t.err = false ∧ t.errcode = 0 ∧ t.core = Core.zero ∧
      ((∃ rest, s.agenda = .hardReset :: rest) ∨ (s.busy = true ∧ s.pending = 0x00000001)))

/-! ### The invariant, and what no step does -/

/-- Every step keeps the invariant: the status fields agree, the input position is in the input, and outside the FAILED
state the writer, the reader, the arena and the code table are as R25 to R32 say. -/
def Obligations.StepKeepsInvariant : Prop :=
  ∀ s t : State, Inv s → step s = .next t → Inv t

/-- The invariant holds of every launch right after reset. -/
def Obligations.LaunchMeetsInvariant : Prop :=
  ∀ (l : Launch) (x : List Byte) (p : List SinkAnswer) (a : List Event), Inv (State.launched l x p a)

/-- R78: from a state that meets the invariant every step has a next state: no command runs on for ever, and no walk of
the arena or of the input goes astray. -/
def Obligations.StepNeverStops : Prop :=
  ∀ s : State, Inv s → ∃ t, step s = .next t

/-- R33, R34, R38: no step changes the launch parameters or the input's bytes, and the output only grows. (That it keeps
its bytes when a write fails is DEDUCED, assumption 4.) -/
def Obligations.LaunchFixedOutputGrows : Prop :=
  ∀ s t : State, step s = .next t →
    t.launch = s.launch ∧ t.ports.inData = s.ports.inData ∧ s.ports.outData <+: t.ports.outData

/-- R40: the core state each command writes on success, and nothing else; the launch, `CTRL`, the rest of `STATUS`, and
the host's side stay. (`SOFT_RESET` writes everything but `CTRL`.) -/
def Obligations.CommandFrames : Prop :=
  ∀ (i : Instr) (s t : State), exec i s = .next t → t.err = false →
    Frame i s.core t.core ∧ (i ≠ .softReset → Completed s t)

/-- R50 to R53, R64: a command that does not need IN leaves `IN_POS`, and one that does not need OUT writes nothing and
asks the sink nothing, whether it goes through or ends in an error; where it goes through, it draws no answer either. -/
def Obligations.PortFrames : Prop :=
  ∀ (i : Instr) (s t : State), exec i s = .next t →
    PortFrame i s.ports t.ports ∧ (t.err = false → needsOut i = false → t.ports.draws = s.ports.draws)

/-! ### The register space (`20_memory.md`, `10_state.md`) -/

/-- R42: the offset of every register; the map from offsets to registers is its inverse, and among the multiples of 4 it
leaves out exactly the reserved ranges. -/
def Obligations.RegisterMapInverse : Prop :=
  (Reg.ctrl.offset = 0x0000 ∧ Reg.status.offset = 0x0004 ∧ Reg.cmd.offset = 0x0008 ∧ Reg.arg.offset = 0x000C ∧
    Reg.result.offset = 0x0010 ∧ Reg.tree.offset = 0x0014 ∧ Reg.wb.offset = 0x0018 ∧ Reg.rb0.offset = 0x001C ∧
    Reg.rb1.offset = 0x0020) ∧
  (∀ i : Fin 256, (Reg.freq i).offset.toNat = 0x0400 + 4 * i.val ∧
    (Reg.codeLen i).offset.toNat = 0x6000 + 4 * i.val) ∧
  (∀ (i : Fin 511) (w : Fin 8), (Reg.node i w).offset.toNat = 0x1000 + 32 * i.val + 4 * w.val) ∧
  (∀ (i : Fin 256) (j : Fin 8), (Reg.codeBits i j).offset.toNat = 0x7000 + 32 * i.val + 4 * j.val) ∧
  (∀ r : Reg, regAt r.offset = some r ∧ r.offset.toNat % 4 = 0) ∧
  (∀ (off : Offset) (r : Reg), off.toNat % 4 = 0 → regAt off = some r → r.offset = off) ∧
  (∀ off : Offset, off.toNat % 4 = 0 → (regAt off = none ↔ ReservedOffset off))

/-- R17, R18, R23, R28, R42: outside an error and with no command in flight, a host read of a register gives its word;
`ARG`, `RESULT`, `FREQ[i]` and `CODE_LEN[i]` read as the state they name, and `ARG` and `FREQ[i]` as they were last
written. `CTRL` reads so always, and `STATUS` outside an error always (R36, R37). That `CMD` reads 0 (R46) while `BUSY` is 1
too, where R37 leaves the read open, and after an error is the model's reading (assumption 5). -/
def Obligations.ReadGivesRegister : Prop :=
  (∀ (s : State) (r : Reg), s.busy = false → s.err = false → regRead r.offset 4 s = (regWord r s, s)) ∧
  (∀ s : State, s.busy = false → s.err = false →
    regRead 0x000C 4 s = (s.core.arg, s) ∧ regRead 0x0010 4 s = (s.core.result, s)) ∧
  (∀ (s : State) (i : Fin 256), s.busy = false → s.err = false →
    regRead (BitVec.ofNat 16 (0x0400 + 4 * i.val)) 4 s = (s.core.freq[i], s) ∧
    regRead (BitVec.ofNat 16 (0x6000 + 4 * i.val)) 4 s = (s.core.codeLen[i].setWidth 32, s)) ∧
  (∀ (s : State) (v : Word), s.busy = false → s.err = false →
    (regRead 0x000C 4 (regWrite 0x000C 4 v s)).1 = v) ∧
  (∀ (s : State) (i : Fin 256) (v : Word), s.busy = false → s.err = false →
    (regRead (BitVec.ofNat 16 (0x0400 + 4 * i.val)) 4
      (regWrite (BitVec.ofNat 16 (0x0400 + 4 * i.val)) 4 v s)).1 = v) ∧
  (∀ s : State, regRead 0x0000 4 s = (ctrlWord s, s) ∧ regRead 0x0008 4 s = (0, s)) ∧
  (∀ s : State, s.err = false → regRead 0x0004 4 s = (statusWord s, s))

/-- R44: an access of a width other than 32 bits, or at an offset that is no multiple of 4, reads 0 and writes
nothing. -/
def Obligations.UnsupportedAccessIgnored : Prop :=
  ∀ (s : State) (off : Offset) (n : Nat) (v : Word), n ≠ 4 ∨ off.toNat % 4 ≠ 0 →
    regRead off n s = (0, s) ∧ regWrite off n v s = s

/-- R42, R43, R45: a reserved offset reads 0 and takes no write; the reserved bits of every register read 0; a write to a
read-only register is ignored, one to `CTRL` keeps only its bit 0, and one to `STATUS` acts only through its bits 1 and 3.
That the reserved bits read 0 while `BUSY` is 1 and after an error too, where R36 and R37 leave the register's value open,
is the model's reading (assumption 5). -/
def Obligations.ReservedBitsReadZero : Prop :=
  (∀ (s : State) (off : Offset) (v : Word), off.toNat % 4 = 0 → ReservedOffset off →
    regRead off 4 s = (0, s) ∧ regWrite off 4 v s = s) ∧
  (∀ s : State,
    (regRead 0x0000 4 s).1 &&& 0xFFFFFFFE = 0 ∧ (regRead 0x0004 4 s).1 &&& 0xFF00E000 = 0 ∧
    (regRead 0x0008 4 s).1 = 0 ∧ (regRead 0x0014 4 s).1 &&& 0xFE00FE00 = 0 ∧
    (regRead 0x0018 4 s).1 &&& 0xFFFFF800 = 0 ∧ (regRead 0x0020 4 s).1 &&& 0xFFFFFFF8 = 0) ∧
  (∀ (s : State) (i : Fin 511) (off : Nat), off = 0x1000 + 32 * i.val →
    (regRead (BitVec.ofNat 16 off) 4 s).1 &&& 0xFF0000F8 = 0 ∧
    (regRead (BitVec.ofNat 16 (off + 4)) 4 s).1 &&& 0xFFFFFE00 = 0 ∧
    (regRead (BitVec.ofNat 16 (off + 8)) 4 s).1 &&& 0xFFFFFE00 = 0 ∧
    (regRead (BitVec.ofNat 16 (off + 12)) 4 s).1 &&& 0xFFFFFE00 = 0 ∧
    (regRead (BitVec.ofNat 16 (off + 20)) 4 s).1 &&& 0xFFFFFF00 = 0 ∧
    (regRead (BitVec.ofNat 16 (off + 24)) 4 s).1 = 0 ∧ (regRead (BitVec.ofNat 16 (off + 28)) 4 s).1 = 0) ∧
  (∀ (s : State) (i : Fin 256), (regRead (BitVec.ofNat 16 (0x6000 + 4 * i.val)) 4 s).1 &&& 0xFFFFFF00 = 0) ∧
  (∀ (s : State) (r : Reg) (v : Word),
    (r = .result ∨ r = .tree ∨ r = .wb ∨ r = .rb0 ∨ r = .rb1 ∨ (∃ i w, r = .node i w) ∨ (∃ i, r = .codeLen i) ∨
      ∃ i j, r = .codeBits i j) → regWrite r.offset 4 v s = s) ∧
  (∀ (s : State) (v : Word), ctrlWord (regWrite 0x0000 4 v s) = v &&& 1) ∧
  (∀ (s : State) (v : Word), regWrite 0x0004 4 v s = regWrite 0x0004 4 (v &&& 0x0000000A) s)

/-- R47, R48: a write to `ARG` or `FREQ[i]` stores the value while `BUSY` is 0 and is ignored while it is 1; while it is
1 only `CTRL`, `STATUS` and `CMD` take a write. -/
def Obligations.HostWritesArgAndFreq : Prop :=
  (∀ (s : State) (v : Word), s.busy = false →
    regWrite 0x000C 4 v s = { s with core := { s.core with arg := v } }) ∧
  (∀ (s : State) (i : Fin 256) (v : Word), s.busy = false →
    ∃ f, regWrite (BitVec.ofNat 16 (0x0400 + 4 * i.val)) 4 v s = { s with core := { s.core with freq := f } } ∧
      f[i] = v ∧ ∀ j : Fin 256, j ≠ i → f[j] = s.core.freq[j]) ∧
  (∀ (s : State) (off : Offset) (n : Nat) (v : Word), s.busy = true → off ≠ 0x0000 → off ≠ 0x0004 → off ≠ 0x0008 →
    regWrite off n v s = s) ∧
  (∀ (s : State) (v : Word), s.busy = true → regWrite 0x0000 4 v s = { s with ie := v.getLsbD 0 })

/-- R46: a read changes no state of HCC: only the model's count of draws may move (assumption 5). -/
def Obligations.ReadsChangeNothing : Prop :=
  ∀ (s : State) (off : Offset) (n : Nat), ∃ d,
    (regRead off n s).2 = { s with ports := { s.ports with draws := d } }

/-- R21, R32: the fields of `STATUS`, `RB_END` with the value of R32, and what a write to it does. -/
def Obligations.StatusLayout : Prop :=
  (∀ s : State,
    (statusWord s).getLsbD 0 = s.busy ∧ (statusWord s).getLsbD 1 = s.done ∧ (statusWord s).getLsbD 2 = s.err ∧
    (statusWord s).getLsbD 3 = s.cmdLost ∧ (statusWord s).extractLsb' 4 4 = s.errcode ∧
    (statusWord s).getLsbD 8 = s.core.treeV ∧ (statusWord s).getLsbD 9 = s.core.treeSrc ∧
    (statusWord s).getLsbD 10 = s.core.codesV ∧ (statusWord s).getLsbD 11 = s.core.hdrOk ∧
    (statusWord s).getLsbD 12 = (s.core.hdrOk && !s.core.rbLa1V && s.core.rbPos.toNat == s.core.rbLim) ∧
    (statusWord s).extractLsb' 13 3 = 0 ∧ (statusWord s).extractLsb' 16 8 = s.lastOpc ∧
    (statusWord s).extractLsb' 24 8 = 0) ∧
  (∀ s : State, s.core.hdrOk = false ∨ s.core.rbLa1V = true → (statusWord s).getLsbD 12 = false) ∧
  (∀ (s : State) (k : Fin 8), s.core.hdrOk = true → s.core.rbLa1V = false →
    s.core.rbLa0 = BitVec.ofNat 8 (2 ^ k.val) →
    ((statusWord s).getLsbD 12 = true ↔ s.core.rbPos.toNat = 8 - k.val)) ∧
  (∀ (s : State) (v : Word), regWrite 0x0004 4 v s =
    { s with done := s.done && !v.getLsbD 1, cmdLost := s.cmdLost && !v.getLsbD 3 })

/-- R150, R152: IRQ is `CTRL.IE AND STATUS.DONE`; writing 1 to `STATUS` bit 1 or accepting a command clears `DONE`;
clearing `IE` masks the interrupt and leaves `DONE`. -/
def Obligations.IrqIsLevel : Prop :=
  (∀ s : State, irq s = true ↔ (ctrlWord s).getLsbD 0 = true ∧ (statusWord s).getLsbD 1 = true) ∧
  (∀ (s : State) (v : Word), v.getLsbD 1 = true → (regWrite 0x0004 4 v s).done = false) ∧
  (∀ (s : State) (w : Word), s.busy = false → s.err = false → (regWrite 0x0008 4 w s).done = false) ∧
  (∀ (s : State) (v : Word), v.getLsbD 0 = false →
    irq (regWrite 0x0000 4 v s) = false ∧ (regWrite 0x0000 4 v s).done = s.done)

/-- R36: after an error a read of `STATUS` gives its defined part, `STATUS & 0x00FF00FF`, whatever the mirror bits; that its
reserved bits still read 0 is the model's reading (assumption 5). -/
def Obligations.StatusAfterError : Prop :=
  ∀ s : State, s.err = true →
    (regRead 0x0004 4 s).1 &&& 0x00FF00FF = statusWord s &&& 0x00FF00FF ∧
    (regRead 0x0004 4 s).1 &&& 0xFF00E000 = 0

/-- R43: the eight words of a node slot and where they stand; where an invalid slot has every field 0 (R25, which
`StepKeepsInvariant` keeps), it reads 0 in each. -/
def Obligations.NodeWordLayout : Prop :=
  (∀ n : Node,
    ((n.word 0).getLsbD 0 = n.valid ∧ (n.word 0).getLsbD 1 = n.leaf ∧ (n.word 0).getLsbD 2 = n.side ∧
      (n.word 0).extractLsb' 8 8 = n.sym ∧ (n.word 0).extractLsb' 16 8 = n.minSym ∧ n.word 0 &&& 0xFF0000F8 = 0) ∧
    (n.word 1).toNat = n.parent.toNat ∧ (n.word 2).toNat = n.c0.toNat ∧ (n.word 3).toNat = n.c1.toNat ∧
    (n.word 5).toNat * 2 ^ 32 + (n.word 4).toNat = n.w.toNat ∧ (n.word 5).toNat < 256 ∧
    n.word 6 = 0 ∧ n.word 7 = 0 ∧ n.word 1 &&& 0xFFFFFE00 = 0 ∧ n.word 2 &&& 0xFFFFFE00 = 0 ∧
    n.word 3 &&& 0xFFFFFE00 = 0) ∧
  (∀ (s : State) (i : Fin 511) (w : Fin 8), regWord (.node i w) s = s.core.node[i].word w.val ∧
    (Reg.node i w).offset.toNat = 0x1000 + 32 * i.val + 4 * w.val) ∧
  (∀ (s : State) (i : Fin 511) (w : Fin 8), SlotsOk s.core → s.core.node[i].valid = false →
    regWord (.node i w) s = 0)

/-- R28, R32, R42: the views `TREE`, `WB`, `RB0`, `RB1`, with the values R32 gives `RB_LIM` and `RB_END`; the words of
`ARG`, `RESULT`, `FREQ` and `CODE_LEN`; and where code bit k stands in the words of `CODE_BITS`. -/
def Obligations.ViewLayouts : Prop :=
  (∀ s : State, s.core.hdrOk = true → s.core.rbLa1V = true →
    (regWord .rb0 s).extractLsb' 12 4 = 8 ∧ (regWord .rb1 s).getLsbD 2 = false) ∧
  (∀ (s : State) (k : Fin 8), s.core.hdrOk = true → s.core.rbLa1V = false →
    s.core.rbLa0 = BitVec.ofNat 8 (2 ^ k.val) →
    ((regWord .rb0 s).extractLsb' 12 4).toNat = 8 - k.val ∧
    ((regWord .rb1 s).getLsbD 2 = true ↔ s.core.rbPos.toNat = 8 - k.val)) ∧
  (∀ s : State, s.core.hdrOk = false →
    (regWord .rb0 s).extractLsb' 12 4 = 0 ∧ (regWord .rb1 s).getLsbD 2 = false) ∧
  ∀ s : State,
    (regWord .arg s = s.core.arg ∧ regWord .result s = s.core.result ∧
      ∀ i : Fin 256, regWord (.freq i) s = s.core.freq[i] ∧
        (regWord (.codeLen i) s).toNat = s.core.codeLen[i].toNat) ∧
    ((regWord .tree s).extractLsb' 0 9 = s.core.root ∧ (regWord .tree s).extractLsb' 16 9 = s.core.nleaf) ∧
    ((regWord .wb s).extractLsb' 0 8 = s.core.wbAcc ∧ (regWord .wb s).extractLsb' 8 3 = s.core.wbCnt) ∧
    ((regWord .rb0 s).extractLsb' 0 8 = s.core.rbCur ∧ (regWord .rb0 s).extractLsb' 8 4 = s.core.rbPos ∧
      ((regWord .rb0 s).extractLsb' 12 4).toNat = s.core.rbLim ∧ (regWord .rb0 s).extractLsb' 16 8 = s.core.rbLa0 ∧
      (regWord .rb0 s).extractLsb' 24 8 = s.core.rbLa1) ∧
    ((regWord .rb1 s).getLsbD 0 = s.core.rbLa1V ∧ (regWord .rb1 s).getLsbD 1 = (s.core.hdrOk && !s.core.rbLa1V) ∧
      (regWord .rb1 s).getLsbD 2 = s.core.rbEnd) ∧
    (∀ (i : Fin 256) (k : Fin 256) (j : Fin 8), j.val = k.val / 32 →
      (regWord (.codeBits i j) s).getLsbD (31 - k.val % 32) = s.core.codeBits[i].getLsbD (255 - k.val))

/-! ### Frequencies and the tree builder (`41_tree_builder.md`) -/

/-- R81: `FREQ_CLEAR` zeroes every count and leaves everything else as it was. -/
def Obligations.FreqClearZeroes : Prop :=
  decode 0x00000010 = .instr .freqClear ∧
  ∀ s : State, ∃ t, exec .freqClear s = .next t ∧ (∀ i : Fin 256, t.core.freq[i] = 0) ∧
    t = complete { s with core := { s.core with freq := t.core.freq } }

/-- R82: `FREQ_COUNT` adds the bytes from `IN_POS` to the end onto the counts, closes the reader and leaves the rest;
when a count would pass 2^32 - 1 it raises `COUNT_OVERFLOW`, and the byte that would overflow has been consumed. It needs
IN. -/
def Obligations.FreqCountAddsInput : Prop :=
  decode 0x00000011 = .instr .freqCount ∧
  (∀ s : State, s.launch.inPresent = true → s.ports.inPos ≤ s.ports.inData.length →
    (∀ b : Byte, (s.core.freqOf b).toNat + (s.ports.inData.drop s.ports.inPos).count b < 2 ^ 32) →
    ∃ t, exec .freqCount s = .next t ∧ Completed s t ∧ Frame .freqCount s.core t.core ∧
      t.ports = { s.ports with inPos := s.ports.inData.length } ∧
      ∀ b : Byte, (t.core.freqOf b).toNat = (s.core.freqOf b).toNat + (s.ports.inData.drop s.ports.inPos).count b) ∧
  (∀ (s : State) (pre : List Byte) (b : Byte) (post : List Byte), s.launch.inPresent = true →
    s.ports.inData.drop s.ports.inPos = pre ++ b :: post →
    (∀ c : Byte, (s.core.freqOf c).toNat + pre.count c < 2 ^ 32) →
    (s.core.freqOf b).toNat + pre.count b = 2 ^ 32 - 1 →
    ∃ t, exec .freqCount s = .next t ∧ Failed .countOverflow s t ∧
      t.ports = { s.ports with inPos := s.ports.inPos + pre.length + 1, draws := t.ports.draws }) ∧
  (∀ s : State, s.launch.inPresent = false → ∃ t, exec .freqCount s = .next t ∧ Failed .invalidArgument s t)

/-- R84, R87: the tree `BUILD_TREE` leaves in the arena is the tree of the counts, found by merging the two first
entries of a worklist kept in key order: where a merged node goes in the list changes nothing. Everything outside the
arena and its descriptors is as it was. -/
def Obligations.BuildTreeRefinesSortedMerge : Prop :=
  ∀ s : State, (∃ b : Byte, s.core.freqOf b ≠ 0) →
    ∃ t, exec .buildTree s = .next t ∧ Completed s t ∧ Frame .buildTree s.core t.core ∧ t.ports = s.ports ∧
      t.core.tree = treeOf (fun b => (s.core.freqOf b).toNat) ∧ t.core.tree.isSome = true

/-- R26, R85: the arena after `BUILD_TREE` with L symbols present: the leaves at their symbols' slots, the internal nodes
at 256 to 256 + L - 2, the root the last of them (the leaf itself when L is 1), each internal node with two children,
each node but the root with one parent. -/
def Obligations.BuildTreeArena : Prop :=
  ∀ (s : State) (n : Nat), n = (allSymbols.filter fun b => s.core.freqOf b != 0).length → 1 ≤ n →
    ∃ t, exec .buildTree s = .next t ∧
      (∀ b : Byte, ((t.core.nodeAt (b.setWidth 9)).valid = true ↔ s.core.freqOf b ≠ 0) ∧
        ((t.core.nodeAt (b.setWidth 9)).valid = true →
          (t.core.nodeAt (b.setWidth 9)).leaf = true ∧ (t.core.nodeAt (b.setWidth 9)).sym = b)) ∧
      (∀ i : Slot, 256 ≤ i.toNat →
        ((t.core.nodeAt i).valid = true ↔ i.toNat + 1 < 256 + n) ∧
        ((t.core.nodeAt i).valid = true → (t.core.nodeAt i).leaf = false ∧
          (t.core.nodeAt (t.core.nodeAt i).c0).valid = true ∧ (t.core.nodeAt (t.core.nodeAt i).c1).valid = true ∧
          (t.core.nodeAt i).c0 ≠ (t.core.nodeAt i).c1)) ∧
      (∀ i : Slot, (t.core.nodeAt i).valid = false → t.core.nodeAt i = Node.empty) ∧
      (∀ i : Slot, (t.core.nodeAt i).valid = true → i ≠ t.core.root →
        ∃! p : Slot, (t.core.nodeAt p).valid = true ∧ (t.core.nodeAt p).leaf = false ∧
          ((t.core.nodeAt p).c0 = i ∨ (t.core.nodeAt p).c1 = i)) ∧
      (2 ≤ n → t.core.root.toNat = 256 + n - 2) ∧
      (n = 1 → (t.core.nodeAt t.core.root).leaf = true ∧ (t.core.nodeAt t.core.root).parent = Config.nullSlot) ∧
      t.core.nleaf.toNat = n

/-- R84, R89: with every count 0 `BUILD_TREE` raises `EMPTY_INPUT` and touches no port. -/
def Obligations.BuildTreeEmptyInput : Prop :=
  ∀ s : State, (∀ b : Byte, s.core.freqOf b = 0) →
    ∃ t, exec .buildTree s = .next t ∧ Failed .emptyInput s t ∧ t.ports = { s.ports with draws := t.ports.draws }

/-- R86: no weight wraps: a leaf's weight is its symbol's count, an internal node's is the exact sum of its children's, the
root's is the sum of all counts, and none is more. -/
def Obligations.WeightsNeverWrap : Prop :=
  ∀ s : State, (∃ b : Byte, s.core.freqOf b ≠ 0) →
    ∃ t, exec .buildTree s = .next t ∧
      (t.core.nodeAt t.core.root).w.toNat = (allSymbols.map fun b => (s.core.freqOf b).toNat).sum ∧
      (∀ i : Slot, (t.core.nodeAt i).valid = true → (t.core.nodeAt i).leaf = false →
        (t.core.nodeAt i).w.toNat =
          (t.core.nodeAt (t.core.nodeAt i).c0).w.toNat + (t.core.nodeAt (t.core.nodeAt i).c1).w.toNat) ∧
      (∀ b : Byte, s.core.freqOf b ≠ 0 → (t.core.nodeAt (b.setWidth 9)).w.toNat = (s.core.freqOf b).toNat) ∧
      (∀ i : Slot, (t.core.nodeAt i).w.toNat ≤ (allSymbols.map fun b => (s.core.freqOf b).toNat).sum)

/-! ### The code table (`42_code_table.md`) -/

/-- R91, R92, R93: with a built tree in the arena `GEN_CODES` gives every symbol its path from the root, a single leaf
the code 0, and every other symbol no code; nothing else changes. -/
def Obligations.GenCodesFromPaths : Prop :=
  ∀ (s : State) (tr : Tree), CoreInv s.core → s.core.treeV = true → s.core.treeSrc = false → s.core.tree = some tr →
    ∃ t, exec .genCodes s = .next t ∧ Completed s t ∧ Frame .genCodes s.core t.core ∧ t.ports = s.ports ∧
      (∀ b : Byte, t.core.codeOf b = tr.codeOf b) ∧
      (∀ (b : Byte) (k : Nat), (t.core.codeLenOf b).toNat ≤ k → k < 256 →
        (t.core.codeBitsOf b).getLsbD (255 - k) = false)

/-- R94, R95: the codes of a built tree of L leaves. For L ≥ 2 no code is a prefix of another, each has 1 to L - 1 bits,
and the sum of 2^-length over the coded symbols is 1; for L = 1 there is one code, of one bit. -/
def Obligations.CodesArePrefixFree : Prop :=
  ∀ s : State, CoreInv s.core → s.core.treeV = true → s.core.treeSrc = false →
    ∃ t, exec .genCodes s = .next t ∧
      (2 ≤ s.core.nleaf.toNat →
        (∀ b c : Byte, b ≠ c → t.core.codeOf b ≠ [] → t.core.codeOf c ≠ [] →
          ¬ t.core.codeOf b <+: t.core.codeOf c) ∧
        (∀ b : Byte, (t.core.codeLenOf b).toNat ≤ s.core.nleaf.toNat - 1) ∧
        ((allSymbols.filter fun b => t.core.codeLenOf b != 0).map
          fun b => 2 ^ (255 - (t.core.codeLenOf b).toNat)).sum = 2 ^ 255) ∧
      (s.core.nleaf.toNat = 1 →
        ∃ b : Byte, t.core.codeOf b = [false] ∧ ∀ c : Byte, c ≠ b → t.core.codeOf c = [])

/-! ### The writer (`43_bit_writer.md`, `45_tree_codec.md`, `46_payload.md`) -/

/-- R97, R100, R102: `PUSH_BITS n` adds the low n bits of `ARG`, bit n-1 first, to the bits sent, with no realignment;
a count of 0 or above 32 raises `INVALID_ARGUMENT`, and a byte it fills that cannot be written `WRITE_FAILURE`. -/
def Obligations.PushBitsAppendsArg : Prop :=
  (∀ (n : Byte) (s : State), 1 ≤ n.toNat → n.toNat ≤ 32 → s.launch.outPresent = true → WriterOk s.core →
    OksAhead 4 s.ports →
    ∃ t, exec (.pushBits n) s = .next t ∧ Completed s t ∧ Frame (.pushBits n) s.core t.core ∧
      OutputOnly s.ports t.ports ∧ WriterOk t.core ∧
      bitsWritten t = bitsWritten s ++ lowBits n.toNat s.core.arg) ∧
  (∀ (n : Byte) (s : State), n.toNat = 0 ∨ 32 < n.toNat →
    ∃ t, exec (.pushBits n) s = .next t ∧ Failed .invalidArgument s t ∧
      t.ports = { s.ports with draws := t.ports.draws }) ∧
  (∀ (n : Byte) (s : State) (k : Nat), 1 ≤ n.toNat → n.toNat ≤ 32 → s.launch.outPresent = true →
    FailsAfter k s.ports → 8 * (k + 1) ≤ s.core.wbCnt.toNat + n.toNat →
    ∃ t, exec (.pushBits n) s = .next t ∧ Failed .writeFailure s t)

/-- R99: `WR_MAGIC` appends the four bytes of the marker; when a byte fails it raises `WRITE_FAILURE`, and the bytes before
it were written; with bits buffered it raises `SEQUENCE_ERROR` and writes nothing. (That the output still begins with
those bytes after the failure is DEDUCED, assumption 4.) -/
def Obligations.WrMagicWritesMarker : Prop :=
  (∀ s : State, s.launch.outPresent = true → s.core.wbCnt = 0 → OksAhead 4 s.ports →
    ∃ t, exec .wrMagic s = .next t ∧ Completed s t ∧ t.core = s.core ∧ OutputOnly s.ports t.ports ∧
      t.ports.outData = s.ports.outData ++
        [s.launch.magic[0], s.launch.magic[1], s.launch.magic[2], s.launch.magic[3]]) ∧
  (∀ (s : State) (n : Nat), s.launch.outPresent = true → s.core.wbCnt = 0 → n < 4 → FailsAfter n s.ports →
    ∃ t, exec .wrMagic s = .next t ∧ Failed .writeFailure s t ∧
      s.ports.outData ++ s.launch.magic.toList.take n <+: t.ports.outData) ∧
  (∀ s : State, s.launch.outPresent = true → s.core.wbCnt ≠ 0 →
    ∃ t, exec .wrMagic s = .next t ∧ Failed .sequenceError s t ∧ t.ports = { s.ports with draws := t.ports.draws })

/-- R98, R101: `FLUSH_PARTIAL` sends the partial byte, its low bits 0, and empties the writer; with nothing buffered it
writes nothing; when the sink fails it raises `WRITE_FAILURE`; its word is 0x00000035. -/
def Obligations.FlushPartialPads : Prop :=
  decode 0x00000035 = .instr .flushPartial ∧
  (∀ s : State, s.launch.outPresent = true → s.core.wbCnt ≠ 0 → WriterOk s.core → OksAhead 1 s.ports →
    ∃ t, exec .flushPartial s = .next t ∧ Completed s t ∧
      t.core = { s.core with wbAcc := 0, wbCnt := 0 } ∧ OutputOnly s.ports t.ports ∧
      t.ports.outData = s.ports.outData ++ [byteOf (buffered s.core)]) ∧
  (∀ s : State, s.launch.outPresent = true → s.core.wbCnt = 0 → exec .flushPartial s = .next (complete s)) ∧
  (∀ s : State, s.launch.outPresent = true → s.core.wbCnt ≠ 0 → FailsAfter 0 s.ports →
    ∃ t, exec .flushPartial s = .next t ∧ Failed .writeFailure s t)

/-- R125, R126: `FINISH` sends the partial byte if there is one, then the footer of the table of R125, then flushes, and
leaves the writer empty; when the partial byte, the footer or the flush fails it raises `WRITE_FAILURE`. -/
def Obligations.FinishWritesFooter : Prop :=
  (∀ s : State, s.launch.outPresent = true → WriterOk s.core → OksAhead 3 s.ports →
    ∃ t, exec .finish s = .next t ∧ Completed s t ∧ t.core = { s.core with wbAcc := 0, wbCnt := 0 } ∧
      OutputOnly s.ports t.ports ∧
      t.ports.outData = s.ports.outData ++ (if s.core.wbCnt = 0 then [] else [byteOf (buffered s.core)]) ++
        [[0x01, 0x80, 0x40, 0x20, 0x10, 0x08, 0x04, 0x02].getD s.core.wbCnt.toNat 0]) ∧
  (∀ (s : State) (n : Nat), s.launch.outPresent = true → n < (if s.core.wbCnt = 0 then 2 else 3) →
    FailsAfter n s.ports →
    ∃ t, exec .finish s = .next t ∧ Failed .writeFailure s t)

/-- R96, R116, R117, R120: `SER_TREE` adds the description of the tree in the arena to the bits sent, 10·L - 1 bits for L
leaves, and does not flush; when a byte it fills cannot be written it raises `WRITE_FAILURE`. -/
def Obligations.SerTreeWritesDescription : Prop :=
  (∀ (s : State) (tr : Tree), s.launch.outPresent = true → s.core.treeV = true → s.core.tree = some tr →
    WriterOk s.core → OksAhead ((tr.bits.length + 7) / 8) s.ports →
    ∃ t, exec .serTree s = .next t ∧ Completed s t ∧ Frame .serTree s.core t.core ∧ OutputOnly s.ports t.ports ∧
      WriterOk t.core ∧ bitsWritten t = bitsWritten s ++ tr.bits ∧ tr.bits.length = 10 * tr.leaves - 1) ∧
  (∀ (s : State) (tr : Tree) (k : Nat), s.launch.outPresent = true → s.core.treeV = true → s.core.tree = some tr →
    FailsAfter k s.ports → 8 * (k + 1) ≤ s.core.wbCnt.toNat + tr.bits.length →
    ∃ t, exec .serTree s = .next t ∧ Failed .writeFailure s t)

/-- R96, R122, R123: `ENC_SYM` adds the symbol's code to the bits sent; a symbol with no code raises `NO_CODE` before any
bit is pushed; when a byte it fills cannot be written it raises `WRITE_FAILURE`. -/
def Obligations.EncSymPushesCode : Prop :=
  (∀ (b : Byte) (s : State), s.launch.outPresent = true → s.core.codesV = true → s.core.codeLenOf b ≠ 0 →
    WriterOk s.core → OksAhead 32 s.ports →
    ∃ t, exec (.encSym b) s = .next t ∧ Completed s t ∧ Frame (.encSym b) s.core t.core ∧
      OutputOnly s.ports t.ports ∧ WriterOk t.core ∧ bitsWritten t = bitsWritten s ++ s.core.codeOf b) ∧
  (∀ (b : Byte) (s : State), s.launch.outPresent = true → s.core.codesV = true → s.core.codeLenOf b = 0 →
    ∃ t, exec (.encSym b) s = .next t ∧ Failed .noCode s t ∧ t.ports = { s.ports with draws := t.ports.draws }) ∧
  (∀ (b : Byte) (s : State) (k : Nat), s.launch.outPresent = true → s.core.codesV = true →
    FailsAfter k s.ports → 8 * (k + 1) ≤ s.core.wbCnt.toNat + (s.core.codeLenOf b).toNat →
    ∃ t, exec (.encSym b) s = .next t ∧ Failed .writeFailure s t)

/-- R96, R124: `ENC_STREAM` rewinds IN and adds the codes of all its bytes to the bits sent, and closes the reader; at the
first byte with no code it raises `NO_CODE`, that byte consumed; when a byte filled by the codes before that cannot be
written it raises `WRITE_FAILURE`. -/
def Obligations.EncStreamEncodesInput : Prop :=
  (∀ s : State, s.launch.inPresent = true → s.launch.outPresent = true → s.core.codesV = true →
    (∀ b ∈ s.ports.inData, s.core.codeLenOf b ≠ 0) → WriterOk s.core →
    OksAhead (((s.ports.inData.flatMap s.core.codeOf).length + 7) / 8) s.ports →
    ∃ t, exec .encStream s = .next t ∧ Completed s t ∧ Frame .encStream s.core t.core ∧ InOutOnly s.ports t.ports ∧
      WriterOk t.core ∧ t.ports.inPos = s.ports.inData.length ∧
      bitsWritten t = bitsWritten s ++ s.ports.inData.flatMap s.core.codeOf) ∧
  (∀ (s : State) (pre : List Byte) (b : Byte) (post : List Byte), s.launch.inPresent = true →
    s.launch.outPresent = true → s.core.codesV = true → s.ports.inData = pre ++ b :: post →
    (∀ c ∈ pre, s.core.codeLenOf c ≠ 0) → s.core.codeLenOf b = 0 →
    OksAhead (((pre.flatMap s.core.codeOf).length + 7) / 8) s.ports →
    ∃ t, exec .encStream s = .next t ∧ Failed .noCode s t ∧ t.ports.inPos = pre.length + 1) ∧
  (∀ (s : State) (pre post : List Byte) (k : Nat), s.launch.inPresent = true → s.launch.outPresent = true →
    s.core.codesV = true → s.ports.inData = pre ++ post → (∀ c ∈ pre, s.core.codeLenOf c ≠ 0) →
    FailsAfter k s.ports → 8 * (k + 1) ≤ s.core.wbCnt.toNat + (pre.flatMap s.core.codeOf).length →
    ∃ t, exec .encStream s = .next t ∧ Failed .writeFailure s t)

/-! ### The reader (`44_bit_reader.md`, `45_tree_codec.md`, `46_payload.md`) -/

/-- R105, R130: the eight legal footers and their counts, every other byte refused, and the footer `FINISH` writes after
c bits read back as c, or 8 for c = 0. -/
def Obligations.FooterCounts : Prop :=
  (∀ k : Fin 8, footerCount (BitVec.ofNat 8 (2 ^ k.val)) = some (8 - k.val)) ∧
  (∀ f : Byte, (∀ k : Fin 8, f ≠ BitVec.ofNat 8 (2 ^ k.val)) → footerCount f = none) ∧
  (∀ c : BitVec 3, footerCount (footerOf c) = some (if c = 0 then 8 else c.toNat))

/-- R108, R110: under the framing of R104 each `next_bit` gives the next valid bit and leaves the ones after it, and when
none is left it raises `CORRUPT_DATA`; a footer that is none is found when its data byte becomes current. -/
def Obligations.NextBitGivesValidBits : Prop :=
  (∀ (w : Work) (b : Bool) (rest : List Bool), w.core.hdrOk = true → ReaderOk w.core → GoodFooter (streamFrom w) →
    bitsLeft w = b :: rest →
    ∃ v, nextBit w = .ok b v ∧ bitsLeft v = rest ∧ ReaderOk v.core ∧ GoodFooter (streamFrom v) ∧
      Frame .decStream w.core v.core ∧ InputOnly w.ports v.ports) ∧
  (∀ w : Work, w.core.hdrOk = true → ReaderOk w.core → bitsLeft w = [] → nextBit w = .raised .corruptData w) ∧
  (∀ w : Work, w.core.hdrOk = true → w.core.rbLa1V = true → w.core.rbPos = 7 →
    w.ports.inData.length ≤ w.ports.inPos → footerCount w.core.rbLa1 = none →
    ∃ v, nextBit w = .raised .corruptData v ∧ v.ports = w.ports)

/-- R106, R113: when the marker comes next in IN and a stream D follows it, `RD_MAGIC` opens the reader at D's first bit:
the window is D's first bytes, and no more than seven bytes are taken. -/
def Obligations.RdMagicOpensReader : Prop :=
  ∀ (s : State) (d : List Byte), s.launch.inPresent = true →
    s.ports.inData.drop s.ports.inPos = s.launch.magic.toList ++ d →
    3 ≤ d.length ∨ (d.length = 2 ∧ GoodFooter d) →
    ∃ t, exec .rdMagic s = .next t ∧ Completed s t ∧ Frame .rdMagic s.core t.core ∧
      t.ports = { s.ports with inPos := s.ports.inPos + min 7 (4 + d.length) } ∧
      t.core.hdrOk = true ∧ t.core.rbPos = 0 ∧ ReaderOk t.core ∧
      streamFrom t.work = d ∧ bitsLeft t.work = validBits d

/-- R106, R111, R113, R134: `RD_MAGIC` and `DECOMPRESS` refuse a header that ends early or differs, and then have read no
byte past it; a stream too short for a data byte and a footer, or of one data byte with no legal footer, is corrupt. -/
def Obligations.BadHeaderRefused : Prop :=
  ∀ (i : Instr) (s : State), i = .rdMagic ∨ i = .decompress → s.launch.inPresent = true →
    (i = .decompress → s.launch.outPresent = true) → s.ports.inPos ≤ s.ports.inData.length →
    ((s.ports.inData.drop s.ports.inPos).length < 4 →
      ∃ t, exec i s = .next t ∧ Failed .invalidHeader s t ∧
        t.ports = { s.ports with inPos := s.ports.inData.length, draws := t.ports.draws }) ∧
    (4 ≤ (s.ports.inData.drop s.ports.inPos).length →
      (s.ports.inData.drop s.ports.inPos).take 4 ≠ s.launch.magic.toList →
      ∃ t, exec i s = .next t ∧ Failed .invalidHeader s t ∧
        t.ports = { s.ports with inPos := s.ports.inPos + 4, draws := t.ports.draws }) ∧
    (∀ d : List Byte, s.ports.inData.drop s.ports.inPos = s.launch.magic.toList ++ d →
      d.length < 2 ∨ (d.length = 2 ∧ ¬ GoodFooter d) →
      ∃ t, exec i s = .next t ∧ Failed .corruptData s t ∧
        t.ports = { s.ports with inPos := s.ports.inData.length, draws := t.ports.draws })

/-- R109, R114: `PULL_BITS n` puts the next n valid bits in `RESULT`, the first most significant, and leaves the ones
after them; with fewer left it raises `CORRUPT_DATA`, and for an illegal count `INVALID_ARGUMENT`. -/
def Obligations.PullBitsTakesValidBits : Prop :=
  (∀ (n : Byte) (s : State), 1 ≤ n.toNat → n.toNat ≤ 32 → s.launch.inPresent = true → s.core.hdrOk = true →
    ReaderOk s.core → GoodFooter (streamFrom s.work) → n.toNat ≤ (bitsLeft s.work).length →
    ∃ t, exec (.pullBits n) s = .next t ∧ Completed s t ∧ Frame (.pullBits n) s.core t.core ∧
      InputOnly s.ports t.ports ∧ ReaderOk t.core ∧
      t.core.result.toNat = bitsValue ((bitsLeft s.work).take n.toNat) ∧
      bitsLeft t.work = (bitsLeft s.work).drop n.toNat) ∧
  (∀ (n : Byte) (s : State), 1 ≤ n.toNat → n.toNat ≤ 32 → s.launch.inPresent = true → s.core.hdrOk = true →
    ReaderOk s.core → GoodFooter (streamFrom s.work) → (bitsLeft s.work).length < n.toNat →
    ∃ t, exec (.pullBits n) s = .next t ∧ Failed .corruptData s t) ∧
  (∀ (n : Byte) (s : State), n.toNat = 0 ∨ 32 < n.toNat →
    ∃ t, exec (.pullBits n) s = .next t ∧ Failed .invalidArgument s t ∧
      t.ports = { s.ports with draws := t.ports.draws })

/-- R27, R118, R119, R121, R140: when the valid bits left begin with the description of a tree of at most 255 internal
nodes, `DESER_TREE` leaves that tree in the arena, its slots in preorder from 0, and the bits after it in the reader.
Valid bits that begin with no such description, because they end inside the tree or because the tree has more internal
nodes (256 marks of internal nodes at the front, for one), are corrupt. (Two leaves of tr may hold the same byte.) -/
def Obligations.DeserTreeReadsDescription : Prop :=
  (∀ (s : State) (tr : Tree) (rest : List Bool), s.launch.inPresent = true → s.core.hdrOk = true → ReaderOk s.core →
    GoodFooter (streamFrom s.work) → tr.internals ≤ 255 → bitsLeft s.work = tr.bits ++ rest →
    ∃ t, exec .deserTree s = .next t ∧ Completed s t ∧ Frame .deserTree s.core t.core ∧ InputOnly s.ports t.ports ∧
      ReaderOk t.core ∧ bitsLeft t.work = rest ∧ t.core.tree = some tr ∧ t.core.root = 0 ∧
      t.core.nleaf.toNat = tr.leaves ∧ laidOut t.core tr 0 ∧
      ∀ i : Slot, (t.core.nodeAt i).valid = true ↔ i.toNat < 2 * tr.leaves - 1) ∧
  (∀ (s : State) (rest : List Bool), s.launch.inPresent = true → s.core.hdrOk = true → ReaderOk s.core →
    GoodFooter (streamFrom s.work) → bitsLeft s.work = List.replicate 256 false ++ rest →
    ∃ t, exec .deserTree s = .next t ∧ Failed .corruptData s t) ∧
  (∀ s : State, s.launch.inPresent = true → s.core.hdrOk = true → ReaderOk s.core → GoodFooter (streamFrom s.work) →
    (∀ (tr : Tree) (rest : List Bool), tr.internals ≤ 255 → bitsLeft s.work ≠ tr.bits ++ rest) →
    ∃ t, exec .deserTree s = .next t ∧ Failed .corruptData s t)

/-- R127, R128: `DEC_SYM` puts the next symbol in `RESULT` and leaves the bits after its code; with no valid bit left it
puts 0x100 there and raises nothing; a code cut off, or a 1 under a single leaf, is corrupt. -/
def Obligations.DecSymTakesOneCode : Prop :=
  ∀ (s : State) (tr : Tree), s.launch.inPresent = true → s.core.hdrOk = true → s.core.treeV = true →
    s.core.tree = some tr → ReaderOk s.core → GoodFooter (streamFrom s.work) →
    (bitsLeft s.work = [] →
      exec .decSym s = .next (complete { s with core := { s.core with result := 0x00000100 } })) ∧
    (∀ (b : Byte) (rest : List Bool), tr.decode (bitsLeft s.work) = some (b, rest) →
      ∃ t, exec .decSym s = .next t ∧ Completed s t ∧ Frame .decSym s.core t.core ∧ InputOnly s.ports t.ports ∧
        ReaderOk t.core ∧ t.core.result.toNat = b.toNat ∧ bitsLeft t.work = rest) ∧
    (bitsLeft s.work ≠ [] → tr.decode (bitsLeft s.work) = none →
      ∃ t, exec .decSym s = .next t ∧ Failed .corruptData s t)

/-- R96, R129, R131: when the valid bits left are the codes of bytes under the tree in the arena, `DEC_STREAM` writes
exactly those bytes, and the reader is at its end; when a code is cut off after some bytes, those bytes stay written;
when one of the bytes cannot be written, or the flush after the last of them fails, it raises `WRITE_FAILURE`. -/
def Obligations.DecStreamWritesDecoded : Prop :=
  ∀ (s : State) (tr : Tree) (ps : List (Byte × List Bool)), s.launch.inPresent = true → s.launch.outPresent = true →
    s.core.hdrOk = true → s.core.treeV = true → s.core.tree = some tr → ReaderOk s.core →
    GoodFooter (streamFrom s.work) → (∀ p ∈ ps, p ∈ tr.codes) →
    (OksAhead (ps.length + 1) s.ports → bitsLeft s.work = ps.flatMap Prod.snd →
      ∃ t, exec .decStream s = .next t ∧ Completed s t ∧ Frame .decStream s.core t.core ∧
        InOutOnly s.ports t.ports ∧ t.core.rbEnd = true ∧
        t.ports.outData = s.ports.outData ++ ps.map Prod.fst) ∧
    (∀ tail : List Bool, OksAhead ps.length s.ports → tail ≠ [] → tr.decode tail = none →
      bitsLeft s.work = ps.flatMap Prod.snd ++ tail →
      ∃ t, exec .decStream s = .next t ∧ Failed .corruptData s t ∧
        t.ports.outData = s.ports.outData ++ ps.map Prod.fst) ∧
    (∀ (tail : List Bool) (k : Nat), FailsAfter k s.ports → bitsLeft s.work = ps.flatMap Prod.snd ++ tail →
      k < ps.length ∨ (k = ps.length ∧ tail = []) →
      ∃ t, exec .decStream s = .next t ∧ Failed .writeFailure s t)

/-! ### The drivers and the file (`47_drivers.md`) -/

/-- R82, R96, R133, R135, R136: for a non-empty input in which no byte value occurs 2^32 times or more, `COMPRESS` writes
exactly the file: the marker, the packed tree and payload bits under the tree of the input's counts, and the footer. It
leaves the tree, its codes and the counts in the core. An empty input raises `EMPTY_INPUT` with nothing written; at the
occurrence of a byte value that would make its count 2^32 it raises `COUNT_OVERFLOW`, that byte consumed and nothing
written; when a byte of the file cannot be written, or the flush after the last fails, it raises `WRITE_FAILURE`. -/
def Obligations.CompressWritesFile : Prop :=
  (∀ (s : State) (f : List Byte), s.launch.inPresent = true → s.launch.outPresent = true → s.core.wbCnt = 0 →
    WriterOk s.core → (∀ b : Byte, s.ports.inData.count b < 2 ^ 32) →
    fileOf s.launch.magic s.ports.inData = some f → OksAhead (f.length + 1) s.ports →
    ∃ t, exec .compress s = .next t ∧ Completed s t ∧ Frame .compress s.core t.core ∧ InOutOnly s.ports t.ports ∧
      t.ports.outData = s.ports.outData ++ f ∧ t.ports.inPos = s.ports.inData.length ∧
      t.core.tree = treeOf (fun b => s.ports.inData.count b) ∧ t.core.treeV = true ∧ t.core.codesV = true ∧
      (∀ b : Byte, (t.core.freqOf b).toNat = s.ports.inData.count b) ∧ t.core.wbCnt = 0) ∧
  (∀ s : State, s.launch.inPresent = true → s.launch.outPresent = true → s.core.wbCnt = 0 → s.ports.inData = [] →
    ∃ t, exec .compress s = .next t ∧ Failed .emptyInput s t ∧
      t.ports = { s.ports with inPos := 0, draws := t.ports.draws }) ∧
  (∀ (s : State) (pre : List Byte) (b : Byte) (post : List Byte), s.launch.inPresent = true →
    s.launch.outPresent = true → s.core.wbCnt = 0 → s.ports.inData = pre ++ b :: post →
    (∀ c : Byte, pre.count c < 2 ^ 32) → pre.count b = 2 ^ 32 - 1 →
    ∃ t, exec .compress s = .next t ∧ Failed .countOverflow s t ∧
      t.ports = { s.ports with inPos := pre.length + 1, draws := t.ports.draws }) ∧
  (∀ (s : State) (f : List Byte) (k : Nat), s.launch.inPresent = true → s.launch.outPresent = true →
    s.core.wbCnt = 0 → (∀ b : Byte, s.ports.inData.count b < 2 ^ 32) →
    fileOf s.launch.magic s.ports.inData = some f → FailsAfter k s.ports → k ≤ f.length →
    ∃ t, exec .compress s = .next t ∧ Failed .writeFailure s t) ∧
  (∀ (m : Vector Byte 4) (x : List Byte), x ≠ [] → (fileOf m x).isSome = true)

/-- R96, R134: when the marker comes next in IN, and the valid bits after it are the description of a tree and the codes of
bytes under it, `DECOMPRESS` writes exactly those bytes; when one of them cannot be written, or the flush after the last
of them fails, it raises `WRITE_FAILURE`. -/
def Obligations.DecompressDecodesStream : Prop :=
  ∀ (s : State) (d : List Byte) (tr : Tree) (ps : List (Byte × List Bool)), s.launch.inPresent = true →
    s.launch.outPresent = true → s.ports.inData.drop s.ports.inPos = s.launch.magic.toList ++ d →
    2 ≤ d.length → GoodFooter d → tr.internals ≤ 255 → (∀ p ∈ ps, p ∈ tr.codes) →
    (OksAhead (ps.length + 1) s.ports → validBits d = tr.bits ++ ps.flatMap Prod.snd →
      ∃ t, exec .decompress s = .next t ∧ Completed s t ∧ Frame .decompress s.core t.core ∧
        InOutOnly s.ports t.ports ∧ t.ports.outData = s.ports.outData ++ ps.map Prod.fst ∧
        t.core.tree = some tr ∧ t.core.rbEnd = true) ∧
    (∀ (tail : List Bool) (k : Nat), FailsAfter k s.ports → validBits d = tr.bits ++ ps.flatMap Prod.snd ++ tail →
      k < ps.length ∨ (k = ps.length ∧ tail = []) →
      ∃ t, exec .decompress s = .next t ∧ Failed .writeFailure s t)

/-- R137: what `COMPRESS` writes for a non-empty input, `DECOMPRESS` turns back into that input. -/
def Obligations.RoundTripRestoresInput : Prop :=
  ∀ (s r : State) (f : List Byte), s.launch.inPresent = true → s.launch.outPresent = true → s.core.wbCnt = 0 →
    WriterOk s.core → s.ports.inData ≠ [] → (∀ b : Byte, s.ports.inData.count b < 2 ^ 32) → s.ports.outData = [] →
    fileOf s.launch.magic s.ports.inData = some f → OksAhead (f.length + 1) s.ports →
    r.launch = s.launch → r.ports.inData = f → r.ports.inPos = 0 → r.ports.outData = [] →
    OksAhead (s.ports.inData.length + 1) r.ports →
    ∃ t u, exec .compress s = .next t ∧ Completed s t ∧ t.ports.outData = r.ports.inData ∧
      exec .decompress r = .next u ∧ Completed r u ∧ u.ports.outData = s.ports.inData

/-- R87, R138: what `COMPRESS` writes is a function of the input and the marker alone: two machines that agree on these
write the same bytes, whatever counts, trees, codes and input positions they hold. -/
def Obligations.CompressIsDeterministic : Prop :=
  ∀ s r t u : State, s.launch = r.launch → s.ports.inData = r.ports.inData → WriterOk s.core → WriterOk r.core →
    s.err = false → r.err = false → exec .compress s = .next t → exec .compress r = .next u →
    t.err = false → u.err = false →
    ∃ f, t.ports.outData = s.ports.outData ++ f ∧ u.ports.outData = r.ports.outData ++ f
end

