-- ==== Sys2Proof/Laws/State.lean ====
section
/-! SUPPORT. What each update of the state leaves in each field: one simp lemma per field per update, true by unfolding,
so that no later proof unfolds a record update. -/

namespace Sys2Proof.Machine

/-! ### `State.setWork`, `State.work` -/

@[simp] theorem State.setWork_launch (s : State) (w : Work) : (s.setWork w).launch = s.launch := rfl
@[simp] theorem State.setWork_ie (s : State) (w : Work) : (s.setWork w).ie = s.ie := rfl
@[simp] theorem State.setWork_busy (s : State) (w : Work) : (s.setWork w).busy = s.busy := rfl
@[simp] theorem State.setWork_done (s : State) (w : Work) : (s.setWork w).done = s.done := rfl
@[simp] theorem State.setWork_err (s : State) (w : Work) : (s.setWork w).err = s.err := rfl
@[simp] theorem State.setWork_cmdLost (s : State) (w : Work) : (s.setWork w).cmdLost = s.cmdLost := rfl
@[simp] theorem State.setWork_errcode (s : State) (w : Work) : (s.setWork w).errcode = s.errcode := rfl
@[simp] theorem State.setWork_lastOpc (s : State) (w : Work) : (s.setWork w).lastOpc = s.lastOpc := rfl
@[simp] theorem State.setWork_pending (s : State) (w : Work) : (s.setWork w).pending = s.pending := rfl
@[simp] theorem State.setWork_core (s : State) (w : Work) : (s.setWork w).core = w.core := rfl
@[simp] theorem State.setWork_ports (s : State) (w : Work) : (s.setWork w).ports = w.ports := rfl
@[simp] theorem State.setWork_agenda (s : State) (w : Work) : (s.setWork w).agenda = s.agenda := rfl
@[simp] theorem State.setWork_replies (s : State) (w : Work) : (s.setWork w).replies = s.replies := rfl

@[simp] theorem State.work_core (s : State) : s.work.core = s.core := rfl
@[simp] theorem State.work_ports (s : State) : s.work.ports = s.ports := rfl
@[simp] theorem State.setWork_work (s : State) : s.setWork s.work = s := rfl
@[simp] theorem State.work_setWork (s : State) (w : Work) : (s.setWork w).work = w := rfl

/-! ### Completion -/

@[simp] theorem complete_launch (s : State) : (complete s).launch = s.launch := rfl
@[simp] theorem complete_ie (s : State) : (complete s).ie = s.ie := rfl
@[simp] theorem complete_busy (s : State) : (complete s).busy = false := rfl
@[simp] theorem complete_done (s : State) : (complete s).done = true := rfl
@[simp] theorem complete_err (s : State) : (complete s).err = s.err := rfl
@[simp] theorem complete_cmdLost (s : State) : (complete s).cmdLost = s.cmdLost := rfl
@[simp] theorem complete_errcode (s : State) : (complete s).errcode = s.errcode := rfl
@[simp] theorem complete_lastOpc (s : State) : (complete s).lastOpc = s.lastOpc := rfl
@[simp] theorem complete_pending (s : State) : (complete s).pending = 0 := rfl
@[simp] theorem complete_core (s : State) : (complete s).core = s.core := rfl
@[simp] theorem complete_ports (s : State) : (complete s).ports = s.ports := rfl
@[simp] theorem complete_agenda (s : State) : (complete s).agenda = s.agenda := rfl
@[simp] theorem complete_replies (s : State) : (complete s).replies = s.replies := rfl

/-! ### Error entry -/

@[simp] theorem errorEntry_launch (e : ErrKind) (s : State) : (errorEntry e s).launch = s.launch := rfl
@[simp] theorem errorEntry_ie (e : ErrKind) (s : State) : (errorEntry e s).ie = s.ie := rfl
@[simp] theorem errorEntry_busy (e : ErrKind) (s : State) : (errorEntry e s).busy = s.busy := rfl
@[simp] theorem errorEntry_done (e : ErrKind) (s : State) : (errorEntry e s).done = s.done := rfl
@[simp] theorem errorEntry_err (e : ErrKind) (s : State) : (errorEntry e s).err = true := rfl
@[simp] theorem errorEntry_cmdLost (e : ErrKind) (s : State) : (errorEntry e s).cmdLost = s.cmdLost := rfl
@[simp] theorem errorEntry_errcode (e : ErrKind) (s : State) : (errorEntry e s).errcode = e.code := rfl
@[simp] theorem errorEntry_lastOpc (e : ErrKind) (s : State) : (errorEntry e s).lastOpc = s.lastOpc := rfl
@[simp] theorem errorEntry_pending (e : ErrKind) (s : State) : (errorEntry e s).pending = s.pending := rfl
@[simp] theorem errorEntry_core (e : ErrKind) (s : State) : (errorEntry e s).core = Config.freeCore s.ports.draws := rfl
@[simp] theorem errorEntry_ports (e : ErrKind) (s : State) : (errorEntry e s).ports = { s.ports with draws := s.ports.draws + 1 } := rfl
@[simp] theorem errorEntry_agenda (e : ErrKind) (s : State) : (errorEntry e s).agenda = s.agenda := rfl
@[simp] theorem errorEntry_replies (e : ErrKind) (s : State) : (errorEntry e s).replies = s.replies := rfl

/-! ### A raise in a command -/

@[simp] theorem raise_launch (e : ErrKind) (s : State) : (raise e s).launch = s.launch := rfl
@[simp] theorem raise_ie (e : ErrKind) (s : State) : (raise e s).ie = s.ie := rfl
@[simp] theorem raise_busy (e : ErrKind) (s : State) : (raise e s).busy = false := rfl
@[simp] theorem raise_done (e : ErrKind) (s : State) : (raise e s).done = true := rfl
@[simp] theorem raise_err (e : ErrKind) (s : State) : (raise e s).err = true := rfl
@[simp] theorem raise_cmdLost (e : ErrKind) (s : State) : (raise e s).cmdLost = s.cmdLost := rfl
@[simp] theorem raise_errcode (e : ErrKind) (s : State) : (raise e s).errcode = e.code := rfl
@[simp] theorem raise_lastOpc (e : ErrKind) (s : State) : (raise e s).lastOpc = s.lastOpc := rfl
@[simp] theorem raise_pending (e : ErrKind) (s : State) : (raise e s).pending = 0 := rfl
@[simp] theorem raise_core (e : ErrKind) (s : State) : (raise e s).core = Config.freeCore s.ports.draws := rfl
@[simp] theorem raise_ports (e : ErrKind) (s : State) : (raise e s).ports = { s.ports with draws := s.ports.draws + 1 } := rfl
@[simp] theorem raise_agenda (e : ErrKind) (s : State) : (raise e s).agenda = s.agenda := rfl
@[simp] theorem raise_replies (e : ErrKind) (s : State) : (raise e s).replies = s.replies := rfl

/-! ### Hardware reset -/

@[simp] theorem hardReset_launch (s : State) : (hardReset s).launch = s.launch := rfl
@[simp] theorem hardReset_ie (s : State) : (hardReset s).ie = false := rfl
@[simp] theorem hardReset_busy (s : State) : (hardReset s).busy = false := rfl
@[simp] theorem hardReset_done (s : State) : (hardReset s).done = false := rfl
@[simp] theorem hardReset_err (s : State) : (hardReset s).err = false := rfl
@[simp] theorem hardReset_cmdLost (s : State) : (hardReset s).cmdLost = false := rfl
@[simp] theorem hardReset_errcode (s : State) : (hardReset s).errcode = 0 := rfl
@[simp] theorem hardReset_lastOpc (s : State) : (hardReset s).lastOpc = 0 := rfl
@[simp] theorem hardReset_pending (s : State) : (hardReset s).pending = 0 := rfl
@[simp] theorem hardReset_core (s : State) : (hardReset s).core = Core.zero := rfl
@[simp] theorem hardReset_ports (s : State) : (hardReset s).ports = s.ports := rfl
@[simp] theorem hardReset_agenda (s : State) : (hardReset s).agenda = s.agenda := rfl
@[simp] theorem hardReset_replies (s : State) : (hardReset s).replies = s.replies := rfl

/-! ### Acceptance -/

@[simp] theorem accept_launch (w : Word) (s : State) : (accept w s).launch = s.launch := rfl
@[simp] theorem accept_ie (w : Word) (s : State) : (accept w s).ie = s.ie := rfl
@[simp] theorem accept_busy (w : Word) (s : State) : (accept w s).busy = true := rfl
@[simp] theorem accept_done (w : Word) (s : State) : (accept w s).done = false := rfl
@[simp] theorem accept_err (w : Word) (s : State) : (accept w s).err = s.err := rfl
@[simp] theorem accept_cmdLost (w : Word) (s : State) : (accept w s).cmdLost = s.cmdLost := rfl
@[simp] theorem accept_errcode (w : Word) (s : State) : (accept w s).errcode = s.errcode := rfl
@[simp] theorem accept_lastOpc (w : Word) (s : State) : (accept w s).lastOpc = w.extractLsb' 0 8 := rfl
@[simp] theorem accept_pending (w : Word) (s : State) : (accept w s).pending = w := rfl
@[simp] theorem accept_core (w : Word) (s : State) : (accept w s).core = s.core := rfl
@[simp] theorem accept_ports (w : Word) (s : State) : (accept w s).ports = s.ports := rfl
@[simp] theorem accept_agenda (w : Word) (s : State) : (accept w s).agenda = s.agenda := rfl
@[simp] theorem accept_replies (w : Word) (s : State) : (accept w s).replies = s.replies := rfl

/-! ### A draw -/

@[simp] theorem State.drew_launch (s : State) : (s.drew).launch = s.launch := rfl
@[simp] theorem State.drew_ie (s : State) : (s.drew).ie = s.ie := rfl
@[simp] theorem State.drew_busy (s : State) : (s.drew).busy = s.busy := rfl
@[simp] theorem State.drew_done (s : State) : (s.drew).done = s.done := rfl
@[simp] theorem State.drew_err (s : State) : (s.drew).err = s.err := rfl
@[simp] theorem State.drew_cmdLost (s : State) : (s.drew).cmdLost = s.cmdLost := rfl
@[simp] theorem State.drew_errcode (s : State) : (s.drew).errcode = s.errcode := rfl
@[simp] theorem State.drew_lastOpc (s : State) : (s.drew).lastOpc = s.lastOpc := rfl
@[simp] theorem State.drew_pending (s : State) : (s.drew).pending = s.pending := rfl
@[simp] theorem State.drew_core (s : State) : (s.drew).core = s.core := rfl
@[simp] theorem State.drew_ports (s : State) : (s.drew).ports = { s.ports with draws := s.ports.draws + 1 } := rfl
@[simp] theorem State.drew_agenda (s : State) : (s.drew).agenda = s.agenda := rfl
@[simp] theorem State.drew_replies (s : State) : (s.drew).replies = s.replies := rfl

/-! ### Writes to `STATUS` and `CTRL` -/

@[simp] theorem writeStatus_launch (v : Word) (s : State) : (writeStatus v s).launch = s.launch := rfl
@[simp] theorem writeStatus_ie (v : Word) (s : State) : (writeStatus v s).ie = s.ie := rfl
@[simp] theorem writeStatus_busy (v : Word) (s : State) : (writeStatus v s).busy = s.busy := rfl
@[simp] theorem writeStatus_done (v : Word) (s : State) : (writeStatus v s).done = (s.done && !v.getLsbD 1) := rfl
@[simp] theorem writeStatus_err (v : Word) (s : State) : (writeStatus v s).err = s.err := rfl
@[simp] theorem writeStatus_cmdLost (v : Word) (s : State) : (writeStatus v s).cmdLost = (s.cmdLost && !v.getLsbD 3) := rfl
@[simp] theorem writeStatus_errcode (v : Word) (s : State) : (writeStatus v s).errcode = s.errcode := rfl
@[simp] theorem writeStatus_lastOpc (v : Word) (s : State) : (writeStatus v s).lastOpc = s.lastOpc := rfl
@[simp] theorem writeStatus_pending (v : Word) (s : State) : (writeStatus v s).pending = s.pending := rfl
@[simp] theorem writeStatus_core (v : Word) (s : State) : (writeStatus v s).core = s.core := rfl
@[simp] theorem writeStatus_ports (v : Word) (s : State) : (writeStatus v s).ports = s.ports := rfl
@[simp] theorem writeStatus_agenda (v : Word) (s : State) : (writeStatus v s).agenda = s.agenda := rfl
@[simp] theorem writeStatus_replies (v : Word) (s : State) : (writeStatus v s).replies = s.replies := rfl

/-! ### Writes to `CTRL` -/

@[simp] theorem writeCtrl_launch (v : Word) (s : State) : (writeCtrl v s).launch = s.launch := rfl
@[simp] theorem writeCtrl_ie (v : Word) (s : State) : (writeCtrl v s).ie = v.getLsbD 0 := rfl
@[simp] theorem writeCtrl_busy (v : Word) (s : State) : (writeCtrl v s).busy = s.busy := rfl
@[simp] theorem writeCtrl_done (v : Word) (s : State) : (writeCtrl v s).done = s.done := rfl
@[simp] theorem writeCtrl_err (v : Word) (s : State) : (writeCtrl v s).err = s.err := rfl
@[simp] theorem writeCtrl_cmdLost (v : Word) (s : State) : (writeCtrl v s).cmdLost = s.cmdLost := rfl
@[simp] theorem writeCtrl_errcode (v : Word) (s : State) : (writeCtrl v s).errcode = s.errcode := rfl
@[simp] theorem writeCtrl_lastOpc (v : Word) (s : State) : (writeCtrl v s).lastOpc = s.lastOpc := rfl
@[simp] theorem writeCtrl_pending (v : Word) (s : State) : (writeCtrl v s).pending = s.pending := rfl
@[simp] theorem writeCtrl_core (v : Word) (s : State) : (writeCtrl v s).core = s.core := rfl
@[simp] theorem writeCtrl_ports (v : Word) (s : State) : (writeCtrl v s).ports = s.ports := rfl
@[simp] theorem writeCtrl_agenda (v : Word) (s : State) : (writeCtrl v s).agenda = s.agenda := rfl
@[simp] theorem writeCtrl_replies (v : Word) (s : State) : (writeCtrl v s).replies = s.replies := rfl

/-! ### `Work.setCore`, `Work.setPorts` -/

@[simp] theorem Work.setCore_core (w : Work) (c : Core) : (w.setCore c).core = c := rfl
@[simp] theorem Work.setCore_ports (w : Work) (c : Core) : (w.setCore c).ports = w.ports := rfl

/-! ### `Work.setPorts` -/

@[simp] theorem Work.setPorts_core (w : Work) (p : Ports) : (w.setPorts p).core = w.core := rfl
@[simp] theorem Work.setPorts_ports (w : Work) (p : Ports) : (w.setPorts p).ports = p := rfl

@[simp] theorem Work.setCore_setCore (w : Work) (c d : Core) : (w.setCore c).setCore d = w.setCore d := rfl
@[simp] theorem Work.setPorts_setPorts (w : Work) (p q : Ports) : (w.setPorts p).setPorts q = w.setPorts q := rfl

/-! ### Closing the reader -/

@[simp] theorem closeReader_ports (w : Work) : (closeReader w).ports = w.ports := rfl

/-! ### Closing the reader: the core state -/

@[simp] theorem closeReader_core_arg (w : Work) : ((closeReader w).core).arg = w.core.arg := rfl
@[simp] theorem closeReader_core_result (w : Work) : ((closeReader w).core).result = w.core.result := rfl
@[simp] theorem closeReader_core_freq (w : Work) : ((closeReader w).core).freq = w.core.freq := rfl
@[simp] theorem closeReader_core_treeV (w : Work) : ((closeReader w).core).treeV = w.core.treeV := rfl
@[simp] theorem closeReader_core_treeSrc (w : Work) : ((closeReader w).core).treeSrc = w.core.treeSrc := rfl
@[simp] theorem closeReader_core_root (w : Work) : ((closeReader w).core).root = w.core.root := rfl
@[simp] theorem closeReader_core_nleaf (w : Work) : ((closeReader w).core).nleaf = w.core.nleaf := rfl
@[simp] theorem closeReader_core_node (w : Work) : ((closeReader w).core).node = w.core.node := rfl
@[simp] theorem closeReader_core_codeLen (w : Work) : ((closeReader w).core).codeLen = w.core.codeLen := rfl
@[simp] theorem closeReader_core_codeBits (w : Work) : ((closeReader w).core).codeBits = w.core.codeBits := rfl
@[simp] theorem closeReader_core_codesV (w : Work) : ((closeReader w).core).codesV = w.core.codesV := rfl
@[simp] theorem closeReader_core_wbAcc (w : Work) : ((closeReader w).core).wbAcc = w.core.wbAcc := rfl
@[simp] theorem closeReader_core_wbCnt (w : Work) : ((closeReader w).core).wbCnt = w.core.wbCnt := rfl
@[simp] theorem closeReader_core_hdrOk (w : Work) : ((closeReader w).core).hdrOk = false := rfl
@[simp] theorem closeReader_core_rbCur (w : Work) : ((closeReader w).core).rbCur = 0 := rfl
@[simp] theorem closeReader_core_rbPos (w : Work) : ((closeReader w).core).rbPos = 0 := rfl
@[simp] theorem closeReader_core_rbLa0 (w : Work) : ((closeReader w).core).rbLa0 = 0 := rfl
@[simp] theorem closeReader_core_rbLa1 (w : Work) : ((closeReader w).core).rbLa1 = 0 := rfl
@[simp] theorem closeReader_core_rbLa1V (w : Work) : ((closeReader w).core).rbLa1V = false := rfl

/-! ### The writer -/

@[simp] theorem Core.setWb_arg (c : Core) (acc : Byte) (cnt : BitVec 3) : (c.setWb acc cnt).arg = c.arg := rfl
@[simp] theorem Core.setWb_result (c : Core) (acc : Byte) (cnt : BitVec 3) : (c.setWb acc cnt).result = c.result := rfl
@[simp] theorem Core.setWb_freq (c : Core) (acc : Byte) (cnt : BitVec 3) : (c.setWb acc cnt).freq = c.freq := rfl
@[simp] theorem Core.setWb_treeV (c : Core) (acc : Byte) (cnt : BitVec 3) : (c.setWb acc cnt).treeV = c.treeV := rfl
@[simp] theorem Core.setWb_treeSrc (c : Core) (acc : Byte) (cnt : BitVec 3) : (c.setWb acc cnt).treeSrc = c.treeSrc := rfl
@[simp] theorem Core.setWb_root (c : Core) (acc : Byte) (cnt : BitVec 3) : (c.setWb acc cnt).root = c.root := rfl
@[simp] theorem Core.setWb_nleaf (c : Core) (acc : Byte) (cnt : BitVec 3) : (c.setWb acc cnt).nleaf = c.nleaf := rfl
@[simp] theorem Core.setWb_node (c : Core) (acc : Byte) (cnt : BitVec 3) : (c.setWb acc cnt).node = c.node := rfl
@[simp] theorem Core.setWb_codeLen (c : Core) (acc : Byte) (cnt : BitVec 3) : (c.setWb acc cnt).codeLen = c.codeLen := rfl
@[simp] theorem Core.setWb_codeBits (c : Core) (acc : Byte) (cnt : BitVec 3) : (c.setWb acc cnt).codeBits = c.codeBits := rfl
@[simp] theorem Core.setWb_codesV (c : Core) (acc : Byte) (cnt : BitVec 3) : (c.setWb acc cnt).codesV = c.codesV := rfl
@[simp] theorem Core.setWb_wbAcc (c : Core) (acc : Byte) (cnt : BitVec 3) : (c.setWb acc cnt).wbAcc = acc := rfl
@[simp] theorem Core.setWb_wbCnt (c : Core) (acc : Byte) (cnt : BitVec 3) : (c.setWb acc cnt).wbCnt = cnt := rfl
@[simp] theorem Core.setWb_hdrOk (c : Core) (acc : Byte) (cnt : BitVec 3) : (c.setWb acc cnt).hdrOk = c.hdrOk := rfl
@[simp] theorem Core.setWb_rbCur (c : Core) (acc : Byte) (cnt : BitVec 3) : (c.setWb acc cnt).rbCur = c.rbCur := rfl
@[simp] theorem Core.setWb_rbPos (c : Core) (acc : Byte) (cnt : BitVec 3) : (c.setWb acc cnt).rbPos = c.rbPos := rfl
@[simp] theorem Core.setWb_rbLa0 (c : Core) (acc : Byte) (cnt : BitVec 3) : (c.setWb acc cnt).rbLa0 = c.rbLa0 := rfl
@[simp] theorem Core.setWb_rbLa1 (c : Core) (acc : Byte) (cnt : BitVec 3) : (c.setWb acc cnt).rbLa1 = c.rbLa1 := rfl
@[simp] theorem Core.setWb_rbLa1V (c : Core) (acc : Byte) (cnt : BitVec 3) : (c.setWb acc cnt).rbLa1V = c.rbLa1V := rfl

/-! ### `RESULT` -/

@[simp] theorem Core.setResult_arg (c : Core) (v : Word) : (c.setResult v).arg = c.arg := rfl
@[simp] theorem Core.setResult_result (c : Core) (v : Word) : (c.setResult v).result = v := rfl
@[simp] theorem Core.setResult_freq (c : Core) (v : Word) : (c.setResult v).freq = c.freq := rfl
@[simp] theorem Core.setResult_treeV (c : Core) (v : Word) : (c.setResult v).treeV = c.treeV := rfl
@[simp] theorem Core.setResult_treeSrc (c : Core) (v : Word) : (c.setResult v).treeSrc = c.treeSrc := rfl
@[simp] theorem Core.setResult_root (c : Core) (v : Word) : (c.setResult v).root = c.root := rfl
@[simp] theorem Core.setResult_nleaf (c : Core) (v : Word) : (c.setResult v).nleaf = c.nleaf := rfl
@[simp] theorem Core.setResult_node (c : Core) (v : Word) : (c.setResult v).node = c.node := rfl
@[simp] theorem Core.setResult_codeLen (c : Core) (v : Word) : (c.setResult v).codeLen = c.codeLen := rfl
@[simp] theorem Core.setResult_codeBits (c : Core) (v : Word) : (c.setResult v).codeBits = c.codeBits := rfl
@[simp] theorem Core.setResult_codesV (c : Core) (v : Word) : (c.setResult v).codesV = c.codesV := rfl
@[simp] theorem Core.setResult_wbAcc (c : Core) (v : Word) : (c.setResult v).wbAcc = c.wbAcc := rfl
@[simp] theorem Core.setResult_wbCnt (c : Core) (v : Word) : (c.setResult v).wbCnt = c.wbCnt := rfl
@[simp] theorem Core.setResult_hdrOk (c : Core) (v : Word) : (c.setResult v).hdrOk = c.hdrOk := rfl
@[simp] theorem Core.setResult_rbCur (c : Core) (v : Word) : (c.setResult v).rbCur = c.rbCur := rfl
@[simp] theorem Core.setResult_rbPos (c : Core) (v : Word) : (c.setResult v).rbPos = c.rbPos := rfl
@[simp] theorem Core.setResult_rbLa0 (c : Core) (v : Word) : (c.setResult v).rbLa0 = c.rbLa0 := rfl
@[simp] theorem Core.setResult_rbLa1 (c : Core) (v : Word) : (c.setResult v).rbLa1 = c.rbLa1 := rfl
@[simp] theorem Core.setResult_rbLa1V (c : Core) (v : Word) : (c.setResult v).rbLa1V = c.rbLa1V := rfl

/-! ### `FREQ` -/

@[simp] theorem Core.setFreq_arg (c : Core) (b : Byte) (v : Word) : (c.setFreq b v).arg = c.arg := rfl
@[simp] theorem Core.setFreq_result (c : Core) (b : Byte) (v : Word) : (c.setFreq b v).result = c.result := rfl
@[simp] theorem Core.setFreq_freq (c : Core) (b : Byte) (v : Word) : (c.setFreq b v).freq = c.freq.set b.toNat v b.isLt := rfl
@[simp] theorem Core.setFreq_treeV (c : Core) (b : Byte) (v : Word) : (c.setFreq b v).treeV = c.treeV := rfl
@[simp] theorem Core.setFreq_treeSrc (c : Core) (b : Byte) (v : Word) : (c.setFreq b v).treeSrc = c.treeSrc := rfl
@[simp] theorem Core.setFreq_root (c : Core) (b : Byte) (v : Word) : (c.setFreq b v).root = c.root := rfl
@[simp] theorem Core.setFreq_nleaf (c : Core) (b : Byte) (v : Word) : (c.setFreq b v).nleaf = c.nleaf := rfl
@[simp] theorem Core.setFreq_node (c : Core) (b : Byte) (v : Word) : (c.setFreq b v).node = c.node := rfl
@[simp] theorem Core.setFreq_codeLen (c : Core) (b : Byte) (v : Word) : (c.setFreq b v).codeLen = c.codeLen := rfl
@[simp] theorem Core.setFreq_codeBits (c : Core) (b : Byte) (v : Word) : (c.setFreq b v).codeBits = c.codeBits := rfl
@[simp] theorem Core.setFreq_codesV (c : Core) (b : Byte) (v : Word) : (c.setFreq b v).codesV = c.codesV := rfl
@[simp] theorem Core.setFreq_wbAcc (c : Core) (b : Byte) (v : Word) : (c.setFreq b v).wbAcc = c.wbAcc := rfl
@[simp] theorem Core.setFreq_wbCnt (c : Core) (b : Byte) (v : Word) : (c.setFreq b v).wbCnt = c.wbCnt := rfl
@[simp] theorem Core.setFreq_hdrOk (c : Core) (b : Byte) (v : Word) : (c.setFreq b v).hdrOk = c.hdrOk := rfl
@[simp] theorem Core.setFreq_rbCur (c : Core) (b : Byte) (v : Word) : (c.setFreq b v).rbCur = c.rbCur := rfl
@[simp] theorem Core.setFreq_rbPos (c : Core) (b : Byte) (v : Word) : (c.setFreq b v).rbPos = c.rbPos := rfl
@[simp] theorem Core.setFreq_rbLa0 (c : Core) (b : Byte) (v : Word) : (c.setFreq b v).rbLa0 = c.rbLa0 := rfl
@[simp] theorem Core.setFreq_rbLa1 (c : Core) (b : Byte) (v : Word) : (c.setFreq b v).rbLa1 = c.rbLa1 := rfl
@[simp] theorem Core.setFreq_rbLa1V (c : Core) (b : Byte) (v : Word) : (c.setFreq b v).rbLa1V = c.rbLa1V := rfl

/-! ### A node slot -/

@[simp] theorem Core.setNode_arg (c : Core) (i : Slot) (n : Node) : (c.setNode i n).arg = c.arg := rfl
@[simp] theorem Core.setNode_result (c : Core) (i : Slot) (n : Node) : (c.setNode i n).result = c.result := rfl
@[simp] theorem Core.setNode_freq (c : Core) (i : Slot) (n : Node) : (c.setNode i n).freq = c.freq := rfl
@[simp] theorem Core.setNode_treeV (c : Core) (i : Slot) (n : Node) : (c.setNode i n).treeV = c.treeV := rfl
@[simp] theorem Core.setNode_treeSrc (c : Core) (i : Slot) (n : Node) : (c.setNode i n).treeSrc = c.treeSrc := rfl
@[simp] theorem Core.setNode_root (c : Core) (i : Slot) (n : Node) : (c.setNode i n).root = c.root := rfl
@[simp] theorem Core.setNode_nleaf (c : Core) (i : Slot) (n : Node) : (c.setNode i n).nleaf = c.nleaf := rfl
@[simp] theorem Core.setNode_node (c : Core) (i : Slot) (n : Node) : (c.setNode i n).node = c.node.setIfInBounds i.toNat n := rfl
@[simp] theorem Core.setNode_codeLen (c : Core) (i : Slot) (n : Node) : (c.setNode i n).codeLen = c.codeLen := rfl
@[simp] theorem Core.setNode_codeBits (c : Core) (i : Slot) (n : Node) : (c.setNode i n).codeBits = c.codeBits := rfl
@[simp] theorem Core.setNode_codesV (c : Core) (i : Slot) (n : Node) : (c.setNode i n).codesV = c.codesV := rfl
@[simp] theorem Core.setNode_wbAcc (c : Core) (i : Slot) (n : Node) : (c.setNode i n).wbAcc = c.wbAcc := rfl
@[simp] theorem Core.setNode_wbCnt (c : Core) (i : Slot) (n : Node) : (c.setNode i n).wbCnt = c.wbCnt := rfl
@[simp] theorem Core.setNode_hdrOk (c : Core) (i : Slot) (n : Node) : (c.setNode i n).hdrOk = c.hdrOk := rfl
@[simp] theorem Core.setNode_rbCur (c : Core) (i : Slot) (n : Node) : (c.setNode i n).rbCur = c.rbCur := rfl
@[simp] theorem Core.setNode_rbPos (c : Core) (i : Slot) (n : Node) : (c.setNode i n).rbPos = c.rbPos := rfl
@[simp] theorem Core.setNode_rbLa0 (c : Core) (i : Slot) (n : Node) : (c.setNode i n).rbLa0 = c.rbLa0 := rfl
@[simp] theorem Core.setNode_rbLa1 (c : Core) (i : Slot) (n : Node) : (c.setNode i n).rbLa1 = c.rbLa1 := rfl
@[simp] theorem Core.setNode_rbLa1V (c : Core) (i : Slot) (n : Node) : (c.setNode i n).rbLa1V = c.rbLa1V := rfl

/-! ### All node slots -/

@[simp] theorem Core.clearNodes_arg (c : Core) : (c.clearNodes).arg = c.arg := rfl
@[simp] theorem Core.clearNodes_result (c : Core) : (c.clearNodes).result = c.result := rfl
@[simp] theorem Core.clearNodes_freq (c : Core) : (c.clearNodes).freq = c.freq := rfl
@[simp] theorem Core.clearNodes_treeV (c : Core) : (c.clearNodes).treeV = c.treeV := rfl
@[simp] theorem Core.clearNodes_treeSrc (c : Core) : (c.clearNodes).treeSrc = c.treeSrc := rfl
@[simp] theorem Core.clearNodes_root (c : Core) : (c.clearNodes).root = c.root := rfl
@[simp] theorem Core.clearNodes_nleaf (c : Core) : (c.clearNodes).nleaf = c.nleaf := rfl
@[simp] theorem Core.clearNodes_node (c : Core) : (c.clearNodes).node = Vector.replicate 511 Node.empty := rfl
@[simp] theorem Core.clearNodes_codeLen (c : Core) : (c.clearNodes).codeLen = c.codeLen := rfl
@[simp] theorem Core.clearNodes_codeBits (c : Core) : (c.clearNodes).codeBits = c.codeBits := rfl
@[simp] theorem Core.clearNodes_codesV (c : Core) : (c.clearNodes).codesV = c.codesV := rfl
@[simp] theorem Core.clearNodes_wbAcc (c : Core) : (c.clearNodes).wbAcc = c.wbAcc := rfl
@[simp] theorem Core.clearNodes_wbCnt (c : Core) : (c.clearNodes).wbCnt = c.wbCnt := rfl
@[simp] theorem Core.clearNodes_hdrOk (c : Core) : (c.clearNodes).hdrOk = c.hdrOk := rfl
@[simp] theorem Core.clearNodes_rbCur (c : Core) : (c.clearNodes).rbCur = c.rbCur := rfl
@[simp] theorem Core.clearNodes_rbPos (c : Core) : (c.clearNodes).rbPos = c.rbPos := rfl
@[simp] theorem Core.clearNodes_rbLa0 (c : Core) : (c.clearNodes).rbLa0 = c.rbLa0 := rfl
@[simp] theorem Core.clearNodes_rbLa1 (c : Core) : (c.clearNodes).rbLa1 = c.rbLa1 := rfl
@[simp] theorem Core.clearNodes_rbLa1V (c : Core) : (c.clearNodes).rbLa1V = c.rbLa1V := rfl

/-! ### A code -/

@[simp] theorem Core.setCode_arg (c : Core) (b len : Byte) (bits : CodeWord) : (c.setCode b len bits).arg = c.arg := rfl
@[simp] theorem Core.setCode_result (c : Core) (b len : Byte) (bits : CodeWord) : (c.setCode b len bits).result = c.result := rfl
@[simp] theorem Core.setCode_freq (c : Core) (b len : Byte) (bits : CodeWord) : (c.setCode b len bits).freq = c.freq := rfl
@[simp] theorem Core.setCode_treeV (c : Core) (b len : Byte) (bits : CodeWord) : (c.setCode b len bits).treeV = c.treeV := rfl
@[simp] theorem Core.setCode_treeSrc (c : Core) (b len : Byte) (bits : CodeWord) : (c.setCode b len bits).treeSrc = c.treeSrc := rfl
@[simp] theorem Core.setCode_root (c : Core) (b len : Byte) (bits : CodeWord) : (c.setCode b len bits).root = c.root := rfl
@[simp] theorem Core.setCode_nleaf (c : Core) (b len : Byte) (bits : CodeWord) : (c.setCode b len bits).nleaf = c.nleaf := rfl
@[simp] theorem Core.setCode_node (c : Core) (b len : Byte) (bits : CodeWord) : (c.setCode b len bits).node = c.node := rfl
@[simp] theorem Core.setCode_codeLen (c : Core) (b len : Byte) (bits : CodeWord) : (c.setCode b len bits).codeLen = c.codeLen.set b.toNat len b.isLt := rfl
@[simp] theorem Core.setCode_codeBits (c : Core) (b len : Byte) (bits : CodeWord) : (c.setCode b len bits).codeBits = c.codeBits.set b.toNat bits b.isLt := rfl
@[simp] theorem Core.setCode_codesV (c : Core) (b len : Byte) (bits : CodeWord) : (c.setCode b len bits).codesV = c.codesV := rfl
@[simp] theorem Core.setCode_wbAcc (c : Core) (b len : Byte) (bits : CodeWord) : (c.setCode b len bits).wbAcc = c.wbAcc := rfl
@[simp] theorem Core.setCode_wbCnt (c : Core) (b len : Byte) (bits : CodeWord) : (c.setCode b len bits).wbCnt = c.wbCnt := rfl
@[simp] theorem Core.setCode_hdrOk (c : Core) (b len : Byte) (bits : CodeWord) : (c.setCode b len bits).hdrOk = c.hdrOk := rfl
@[simp] theorem Core.setCode_rbCur (c : Core) (b len : Byte) (bits : CodeWord) : (c.setCode b len bits).rbCur = c.rbCur := rfl
@[simp] theorem Core.setCode_rbPos (c : Core) (b len : Byte) (bits : CodeWord) : (c.setCode b len bits).rbPos = c.rbPos := rfl
@[simp] theorem Core.setCode_rbLa0 (c : Core) (b len : Byte) (bits : CodeWord) : (c.setCode b len bits).rbLa0 = c.rbLa0 := rfl
@[simp] theorem Core.setCode_rbLa1 (c : Core) (b len : Byte) (bits : CodeWord) : (c.setCode b len bits).rbLa1 = c.rbLa1 := rfl
@[simp] theorem Core.setCode_rbLa1V (c : Core) (b len : Byte) (bits : CodeWord) : (c.setCode b len bits).rbLa1V = c.rbLa1V := rfl

/-! ### All codes -/

@[simp] theorem Core.clearCodes_arg (c : Core) : (c.clearCodes).arg = c.arg := rfl
@[simp] theorem Core.clearCodes_result (c : Core) : (c.clearCodes).result = c.result := rfl
@[simp] theorem Core.clearCodes_freq (c : Core) : (c.clearCodes).freq = c.freq := rfl
@[simp] theorem Core.clearCodes_treeV (c : Core) : (c.clearCodes).treeV = c.treeV := rfl
@[simp] theorem Core.clearCodes_treeSrc (c : Core) : (c.clearCodes).treeSrc = c.treeSrc := rfl
@[simp] theorem Core.clearCodes_root (c : Core) : (c.clearCodes).root = c.root := rfl
@[simp] theorem Core.clearCodes_nleaf (c : Core) : (c.clearCodes).nleaf = c.nleaf := rfl
@[simp] theorem Core.clearCodes_node (c : Core) : (c.clearCodes).node = c.node := rfl
@[simp] theorem Core.clearCodes_codeLen (c : Core) : (c.clearCodes).codeLen = Vector.replicate 256 0 := rfl
@[simp] theorem Core.clearCodes_codeBits (c : Core) : (c.clearCodes).codeBits = Vector.replicate 256 0 := rfl
@[simp] theorem Core.clearCodes_codesV (c : Core) : (c.clearCodes).codesV = c.codesV := rfl
@[simp] theorem Core.clearCodes_wbAcc (c : Core) : (c.clearCodes).wbAcc = c.wbAcc := rfl
@[simp] theorem Core.clearCodes_wbCnt (c : Core) : (c.clearCodes).wbCnt = c.wbCnt := rfl
@[simp] theorem Core.clearCodes_hdrOk (c : Core) : (c.clearCodes).hdrOk = c.hdrOk := rfl
@[simp] theorem Core.clearCodes_rbCur (c : Core) : (c.clearCodes).rbCur = c.rbCur := rfl
@[simp] theorem Core.clearCodes_rbPos (c : Core) : (c.clearCodes).rbPos = c.rbPos := rfl
@[simp] theorem Core.clearCodes_rbLa0 (c : Core) : (c.clearCodes).rbLa0 = c.rbLa0 := rfl
@[simp] theorem Core.clearCodes_rbLa1 (c : Core) : (c.clearCodes).rbLa1 = c.rbLa1 := rfl
@[simp] theorem Core.clearCodes_rbLa1V (c : Core) : (c.clearCodes).rbLa1V = c.rbLa1V := rfl

/-! ### The cursor -/

@[simp] theorem Core.moveCursor_arg (c : Core) : (c.moveCursor).arg = c.arg := rfl
@[simp] theorem Core.moveCursor_result (c : Core) : (c.moveCursor).result = c.result := rfl
@[simp] theorem Core.moveCursor_freq (c : Core) : (c.moveCursor).freq = c.freq := rfl
@[simp] theorem Core.moveCursor_treeV (c : Core) : (c.moveCursor).treeV = c.treeV := rfl
@[simp] theorem Core.moveCursor_treeSrc (c : Core) : (c.moveCursor).treeSrc = c.treeSrc := rfl
@[simp] theorem Core.moveCursor_root (c : Core) : (c.moveCursor).root = c.root := rfl
@[simp] theorem Core.moveCursor_nleaf (c : Core) : (c.moveCursor).nleaf = c.nleaf := rfl
@[simp] theorem Core.moveCursor_node (c : Core) : (c.moveCursor).node = c.node := rfl
@[simp] theorem Core.moveCursor_codeLen (c : Core) : (c.moveCursor).codeLen = c.codeLen := rfl
@[simp] theorem Core.moveCursor_codeBits (c : Core) : (c.moveCursor).codeBits = c.codeBits := rfl
@[simp] theorem Core.moveCursor_codesV (c : Core) : (c.moveCursor).codesV = c.codesV := rfl
@[simp] theorem Core.moveCursor_wbAcc (c : Core) : (c.moveCursor).wbAcc = c.wbAcc := rfl
@[simp] theorem Core.moveCursor_wbCnt (c : Core) : (c.moveCursor).wbCnt = c.wbCnt := rfl
@[simp] theorem Core.moveCursor_hdrOk (c : Core) : (c.moveCursor).hdrOk = c.hdrOk := rfl
@[simp] theorem Core.moveCursor_rbCur (c : Core) : (c.moveCursor).rbCur = c.rbCur := rfl
@[simp] theorem Core.moveCursor_rbPos (c : Core) : (c.moveCursor).rbPos = c.rbPos + 1 := rfl
@[simp] theorem Core.moveCursor_rbLa0 (c : Core) : (c.moveCursor).rbLa0 = c.rbLa0 := rfl
@[simp] theorem Core.moveCursor_rbLa1 (c : Core) : (c.moveCursor).rbLa1 = c.rbLa1 := rfl
@[simp] theorem Core.moveCursor_rbLa1V (c : Core) : (c.moveCursor).rbLa1V = c.rbLa1V := rfl

/-! ### The ports -/

@[simp] theorem Ports.rewind_inData (p : Ports) : (p.rewind).inData = p.inData := rfl
@[simp] theorem Ports.rewind_inPos (p : Ports) : (p.rewind).inPos = 0 := rfl
@[simp] theorem Ports.rewind_outData (p : Ports) : (p.rewind).outData = p.outData := rfl
@[simp] theorem Ports.rewind_sinkPlan (p : Ports) : (p.rewind).sinkPlan = p.sinkPlan := rfl
@[simp] theorem Ports.rewind_draws (p : Ports) : (p.rewind).draws = p.draws := rfl

end Sys2Proof.Machine
end

