-- ==== Sys2Proof/Laws/Ops.lean ====
section
/-! SUPPORT. The shared operations, said once: what a sequence ends in, what the checks and the end of a command do,
what each port, writer and reader primitive can do, and reading after writing in the core's tables. -/

namespace Sys2Proof.Machine

/-! ### Sequences -/

@[simp] theorem Res.bind_ok {α β : Type} (a : α) (w : Work) (k : α → Work → Res β) : (Res.ok a w).bind k = k a w := rfl
@[simp] theorem Res.bind_raised {α β : Type} (e : ErrKind) (w : Work) (k : α → Work → Res β) :
    (Res.raised e w).bind k = .raised e w := rfl
@[simp] theorem Res.bind_stuck {α β : Type} (f : Fault) (k : α → Work → Res β) : (Res.stuck f).bind k = .stuck f := rfl

theorem Res.bind_eq_ok {α β : Type} {r : Res α} {k : α → Work → Res β} {b : β} {v : Work} :
    r.bind k = .ok b v ↔ ∃ a w, r = .ok a w ∧ k a w = .ok b v := by
  cases r <;> simp [Res.bind]

theorem Res.bind_eq_raised {α β : Type} {r : Res α} {k : α → Work → Res β} {e : ErrKind} {v : Work} :
    r.bind k = .raised e v ↔ r = .raised e v ∨ ∃ a w, r = .ok a w ∧ k a w = .raised e v := by
  cases r <;> simp [Res.bind]

theorem Res.bind_eq_stuck {α β : Type} {r : Res α} {k : α → Work → Res β} {f : Fault} :
    r.bind k = .stuck f ↔ r = .stuck f ∨ ∃ a w, r = .ok a w ∧ k a w = .stuck f := by
  cases r <;> simp [Res.bind]

theorem Res.bind_assoc {α β γ : Type} (r : Res α) (k : α → Work → Res β) (l : β → Work → Res γ) :
    (r.bind k).bind l = r.bind fun a w => (k a w).bind l := by
  cases r <;> rfl

/-- What a body can end in: P of a success, E of an error, F of a fault. -/
def Res.Post {α : Type} (r : Res α) (P : α → Work → Prop) (E : ErrKind → Work → Prop) (F : Fault → Prop) : Prop :=
  match r with
  | .ok a w => P a w
  | .raised e w => E e w
  | .stuck f => F f

theorem Res.Post.bind {α β : Type} {r : Res α} {k : α → Work → Res β} {P : α → Work → Prop} {Q : β → Work → Prop}
    {E : ErrKind → Work → Prop} {F : Fault → Prop} (h : r.Post P E F) (hk : ∀ a w, P a w → (k a w).Post Q E F) :
    (r.bind k).Post Q E F := by
  cases r with
  | ok a w => exact hk a w h
  | raised e w => exact h
  | stuck f => exact h

theorem Res.Post.mono {α : Type} {r : Res α} {P Q : α → Work → Prop} {E E' : ErrKind → Work → Prop}
    {F F' : Fault → Prop} (h : r.Post P E F) (hP : ∀ a w, P a w → Q a w) (hE : ∀ e w, E e w → E' e w)
    (hF : ∀ f, F f → F' f) : r.Post Q E' F' := by
  cases r with
  | ok a w => exact hP a w h
  | raised e w => exact hE e w h
  | stuck f => exact hF f h

/-! ### The end of a command and its checks -/

/-- A command that goes on ends by completion, or by error entry and completion (R73). -/
theorem settle_eq_next {s t : State} {r : Res Unit} :
    settle s r = .next t ↔
      (∃ w, r = .ok () w ∧ t = complete (s.setWork w)) ∨ (∃ e w, r = .raised e w ∧ t = raise e (s.setWork w)) := by
  cases r <;> simp [settle, eq_comm]

/-- The checks of R75 after the decode: what a checked command can do. -/
theorem checked_cases (needsIn needsOut prereq : Bool) (body : Work → Res Unit) (s : State) :
    (((needsIn = true ∧ s.launch.inPresent = false) ∨ (needsOut = true ∧ s.launch.outPresent = false)) ∧
      checked needsIn needsOut prereq body s = .next (raise .invalidArgument s)) ∨
    ((needsIn = true → s.launch.inPresent = true) ∧ (needsOut = true → s.launch.outPresent = true) ∧ prereq = false ∧
      checked needsIn needsOut prereq body s = .next (raise .sequenceError s)) ∨
    ((needsIn = true → s.launch.inPresent = true) ∧ (needsOut = true → s.launch.outPresent = true) ∧ prereq = true ∧
      checked needsIn needsOut prereq body s = settle s (body s.work)) := by
  unfold checked
  cases needsIn <;> cases needsOut <;> cases prereq <;> cases s.launch.inPresent <;> cases s.launch.outPresent <;> simp

/-- With its ports connected and its prerequisite met, a command is its body. -/
theorem checked_ready {needsIn needsOut prereq : Bool} {body : Work → Res Unit} {s : State}
    (hi : needsIn = true → s.launch.inPresent = true) (ho : needsOut = true → s.launch.outPresent = true)
    (hp : prereq = true) : checked needsIn needsOut prereq body s = settle s (body s.work) := by
  unfold checked
  cases needsIn <;> cases needsOut <;> simp_all

@[simp] theorem checkedCount_legal {n : Byte} {go : State → Host.Outcome State Fault Refusal} {s : State}
    (h : countLegal n = true) : checkedCount n go s = go s := by
  simp [checkedCount, h]

@[simp] theorem checkedCount_illegal {n : Byte} {go : State → Host.Outcome State Fault Refusal} {s : State}
    (h : countLegal n = false) : checkedCount n go s = .next (raise .invalidArgument s) := by
  simp [checkedCount, h]

/-! ### The port IN -/

theorem readByte_some {p : Ports} {b : Byte} (h : p.inData[p.inPos]? = some b) :
    p.readByte = (some b, { p with inPos := p.inPos + 1 }) := by
  simp [Ports.readByte, h]

theorem readByte_eos {p : Ports} (h : p.inData.length ≤ p.inPos) : p.readByte = (none, p) := by
  simp [Ports.readByte, List.getElem?_eq_none h]

/-- `ReadByte` gives the next byte and moves past it, or gives nothing and stays (R50). -/
theorem readByte_cases (p : Ports) :
    (∃ h : p.inPos < p.inData.length, p.readByte = (some p.inData[p.inPos], { p with inPos := p.inPos + 1 })) ∨
    (p.inData.length ≤ p.inPos ∧ p.readByte = (none, p)) := by
  by_cases h : p.inPos < p.inData.length
  · exact .inl ⟨h, readByte_some (List.getElem?_eq_getElem h)⟩
  · exact .inr ⟨by omega, readByte_eos (by omega)⟩

/-! ### The port OUT -/

/-- Only the output side of the ports moves, and the output only grows (R52, R53). -/
structure OutMoves (p q : Ports) : Prop where
  only : OutputOnly p q
  grows : p.outData <+: q.outData

theorem OutMoves.refl (p : Ports) : OutMoves p p := ⟨rfl, List.prefix_refl _⟩

theorem OutMoves.trans {p q r : Ports} (h : OutMoves p q) (k : OutMoves q r) : OutMoves p r := by
  refine ⟨?_, h.grows.trans k.grows⟩
  rw [k.only, h.only]

theorem nextAnswer_frame (p : Ports) :
    p.nextAnswer.2 = { p with sinkPlan := p.nextAnswer.2.sinkPlan, draws := p.nextAnswer.2.draws } := by
  unfold Ports.nextAnswer
  split <;> rfl

/-- `WriteByte` appends the byte, or what the sink kept of it (R52). -/
theorem writeByte_cases (p : Ports) (b : Byte) :
    (∃ q, p.writeByte b = (true, q) ∧ OutMoves p q ∧ q.outData = p.outData ++ [b]) ∨
    (∃ q kept, p.writeByte b = (false, q) ∧ OutMoves p q ∧ q.outData = p.outData ++ kept) := by
  rcases hn : p.nextAnswer with ⟨a, q⟩
  have hf : q = { p with sinkPlan := q.sinkPlan, draws := q.draws } := by simpa [hn] using nextAnswer_frame p
  have ho : q.outData = p.outData := by rw [hf]
  cases a with
  | ok =>
    refine .inl ⟨{ q with outData := q.outData ++ [b] }, ?_, ⟨?_, ?_⟩, by simp [ho]⟩
    · simp [Ports.writeByte, hn]
    · rw [hf]
    · simp [ho]
  | fail kept =>
    refine .inr ⟨{ q with outData := q.outData ++ kept }, kept, ?_, ⟨?_, ?_⟩, by simp [ho]⟩
    · simp [Ports.writeByte, hn]
    · rw [hf]
    · simp [ho]

/-- `Flush` leaves the output, or adds what a failing sink kept (R53). -/
theorem flush_cases (p : Ports) :
    (∃ q, p.flush = (true, q) ∧ OutMoves p q ∧ q.outData = p.outData) ∨
    (∃ q kept, p.flush = (false, q) ∧ OutMoves p q ∧ q.outData = p.outData ++ kept) := by
  rcases hn : p.nextAnswer with ⟨a, q⟩
  have hf : q = { p with sinkPlan := q.sinkPlan, draws := q.draws } := by simpa [hn] using nextAnswer_frame p
  have ho : q.outData = p.outData := by rw [hf]
  cases a with
  | ok =>
    refine .inl ⟨q, ?_, ⟨?_, ?_⟩, ho⟩
    · simp [Ports.flush, hn]
    · rw [hf]
    · simp [ho]
  | fail kept =>
    refine .inr ⟨{ q with outData := q.outData ++ kept }, kept, ?_, ⟨?_, ?_⟩, by simp [ho]⟩
    · simp [Ports.flush, hn]
    · rw [hf]
    · simp [ho]

/-! ### The writer -/

/-- The writer's moves: the Bit Buffer and the output, nothing else. -/
structure WriterMoves (w v : Work) : Prop where
  core : v.core = w.core.setWb v.core.wbAcc v.core.wbCnt
  ports : OutMoves w.ports v.ports

theorem WriterMoves.refl (w : Work) : WriterMoves w w := ⟨rfl, OutMoves.refl _⟩

theorem WriterMoves.trans {u v w : Work} (h : WriterMoves u v) (k : WriterMoves v w) : WriterMoves u w := by
  refine ⟨?_, h.ports.trans k.ports⟩
  rw [k.core, h.core]
  rfl

theorem WriterMoves.setWb (w : Work) (acc : Byte) (cnt : BitVec 3) : WriterMoves w (w.setCore (w.core.setWb acc cnt)) :=
  ⟨rfl, OutMoves.refl _⟩

/-- An error of the writer is `WRITE_FAILURE`, after moves of the writer. -/
abbrev WriterErr (w : Work) (e : ErrKind) (v : Work) : Prop := e = .writeFailure ∧ WriterMoves w v

/-- A sink that fails at once has `fail` at the front of its plan. -/
theorem failsAfter_zero {p : Ports} : FailsAfter 0 p ↔ ∃ kept rest, p.sinkPlan = .fail kept :: rest := by
  simp [FailsAfter]

/-- A sink that fails later takes the next byte, and one byte fewer after it. -/
theorem failsAfter_succ {k : Nat} {p : Ports} :
    FailsAfter (k + 1) p ↔
      ∃ rest, p.sinkPlan = .ok :: rest ∧ ∀ q : Ports, q.sinkPlan = rest → FailsAfter k q := by
  constructor
  · rintro ⟨kept, rest, h⟩
    exact ⟨_, by simpa [List.replicate_succ] using h, fun q hq => ⟨kept, rest, hq⟩⟩
  · rintro ⟨rest, h, hq⟩
    obtain ⟨kept, more, hm⟩ := hq { p with sinkPlan := rest } rfl
    exact ⟨kept, more, by simp_all [List.replicate_succ]⟩

/-- `emit` appends the byte, or raises `WRITE_FAILURE` (R96). -/
theorem emit_cases (b : Byte) (w : Work) :
    (∃ p, emit b w = .ok () (w.setPorts p) ∧ OutMoves w.ports p ∧ p.outData = w.ports.outData ++ [b]) ∨
    (∃ p kept, emit b w = .raised .writeFailure (w.setPorts p) ∧ OutMoves w.ports p ∧
      p.outData = w.ports.outData ++ kept) := by
  rcases writeByte_cases w.ports b with ⟨q, h, m, o⟩ | ⟨q, kept, h, m, o⟩
  · exact .inl ⟨q, by simp only [emit, h], m, o⟩
  · exact .inr ⟨q, kept, by simp only [emit, h], m, o⟩

theorem emit_ok {b : Byte} {w : Work} {rest : List SinkAnswer} (h : w.ports.sinkPlan = .ok :: rest) :
    emit b w = .ok () (w.setPorts { w.ports with sinkPlan := rest, outData := w.ports.outData ++ [b] }) := by
  simp [emit, Ports.writeByte, Ports.nextAnswer, h]

theorem emit_fail {b : Byte} {w : Work} {kept : List Byte} {rest : List SinkAnswer}
    (h : w.ports.sinkPlan = .fail kept :: rest) :
    emit b w =
      .raised .writeFailure (w.setPorts { w.ports with sinkPlan := rest, outData := w.ports.outData ++ kept }) := by
  simp [emit, Ports.writeByte, Ports.nextAnswer, h]

theorem emit_post (b : Byte) (w : Work) :
    (emit b w).Post (fun _ v => WriterMoves w v) (WriterErr w) (fun _ => False) := by
  rcases emit_cases b w with ⟨p, h, m, -⟩ | ⟨p, -, h, m, -⟩ <;> rw [h]
  · exact ⟨rfl, m⟩
  · exact ⟨rfl, rfl, m⟩

theorem flushOut_post (w : Work) :
    (flushOut w).Post (fun _ v => WriterMoves w v ∧ v.ports.outData = w.ports.outData) (WriterErr w)
      (fun _ => False) := by
  rcases flush_cases w.ports with ⟨q, h, m, o⟩ | ⟨q, -, h, m, -⟩ <;> simp only [flushOut, h]
  · exact ⟨⟨rfl, m⟩, o⟩
  · exact ⟨rfl, rfl, m⟩

theorem flushOut_ok {w : Work} {rest : List SinkAnswer} (h : w.ports.sinkPlan = .ok :: rest) :
    flushOut w = .ok () (w.setPorts { w.ports with sinkPlan := rest }) := by
  simp [flushOut, Ports.flush, Ports.nextAnswer, h]

theorem flushOut_fail {w : Work} {kept : List Byte} {rest : List SinkAnswer} (h : w.ports.sinkPlan = .fail kept :: rest) :
    flushOut w =
      .raised .writeFailure (w.setPorts { w.ports with sinkPlan := rest, outData := w.ports.outData ++ kept }) := by
  simp [flushOut, Ports.flush, Ports.nextAnswer, h]

theorem emptyWriter_moves (w : Work) : WriterMoves w (emptyWriter w) := WriterMoves.setWb w 0 0

/-- A bit that leaves the Bit Buffer short of a byte (R97). -/
theorem pushBit_short {b : Bool} {w : Work} (h : w.core.wbCnt ≠ 7) :
    pushBit b w =
      .ok () (w.setCore (w.core.setWb (setBit w.core.wbAcc (7 - w.core.wbCnt.toNat) b) (w.core.wbCnt + 1))) := by
  simp only [pushBit, if_neg h]

/-- A bit that completes a byte the sink takes (R97). -/
theorem pushBit_full {b : Bool} {w : Work} {rest : List SinkAnswer} (h : w.core.wbCnt = 7)
    (hp : w.ports.sinkPlan = .ok :: rest) :
    pushBit b w =
      .ok () { core := w.core.setWb 0 0
               ports := { w.ports with sinkPlan := rest, outData := w.ports.outData ++ [setBit w.core.wbAcc 0 b] } } := by
  simp only [pushBit, if_pos h]
  rw [emit_ok (w := w.setCore (w.core.setWb (setBit w.core.wbAcc (7 - w.core.wbCnt.toNat) b) 7)) (rest := rest) hp]
  simp [h, emptyWriter, Work.setCore, Work.setPorts, Core.setWb]

/-- A bit that completes a byte the sink refuses (R96, R97). -/
theorem pushBit_fail {b : Bool} {w : Work} {kept : List Byte} {rest : List SinkAnswer} (h : w.core.wbCnt = 7)
    (hp : w.ports.sinkPlan = .fail kept :: rest) : ∃ v, pushBit b w = .raised .writeFailure v := by
  simp only [pushBit, if_pos h]
  rw [emit_fail (w := w.setCore (w.core.setWb (setBit w.core.wbAcc (7 - w.core.wbCnt.toNat) b) 7)) (rest := rest) hp]
  exact ⟨_, rfl⟩

theorem pushBit_post (b : Bool) (w : Work) :
    (pushBit b w).Post (fun _ v => WriterMoves w v) (WriterErr w) (fun _ => False) := by
  unfold pushBit
  simp only
  split
  · refine Res.Post.bind (P := fun _ v => WriterMoves w v) ((emit_post _ _).mono ?_ ?_ (fun _ h => h)) ?_
    · exact fun _ v h => (WriterMoves.setWb w _ _).trans h
    · exact fun e v h => ⟨h.1, (WriterMoves.setWb w _ _).trans h.2⟩
    · exact fun _ v h => h.trans (emptyWriter_moves v)
  · exact WriterMoves.setWb w _ _

theorem pushBits_post (bs : List Bool) (w : Work) :
    (pushBits bs w).Post (fun _ v => WriterMoves w v) (WriterErr w) (fun _ => False) := by
  induction bs generalizing w with
  | nil => exact WriterMoves.refl w
  | cons b bs ih =>
    refine Res.Post.bind (pushBit_post b w) fun _ v h => (ih v).mono ?_ ?_ (fun _ h => h)
    · exact fun _ _ k => h.trans k
    · exact fun _ _ k => ⟨k.1, h.trans k.2⟩

theorem pushBits_append (xs ys : List Bool) (w : Work) :
    pushBits (xs ++ ys) w = (pushBits xs w).bind fun _ w => pushBits ys w := by
  induction xs generalizing w with
  | nil => rfl
  | cons b xs ih => simp [pushBits, Res.bind_assoc, ih]

theorem flushPartial_post (w : Work) :
    (flushPartial w).Post (fun _ v => WriterMoves w v) (WriterErr w) (fun _ => False) := by
  unfold flushPartial
  split
  · exact WriterMoves.refl w
  · exact Res.Post.bind (emit_post _ w) fun _ v h => h.trans (emptyWriter_moves v)

theorem emitAll_post (bs : List Byte) (w : Work) :
    (emitAll bs w).Post (fun _ v => WriterMoves w v) (WriterErr w) (fun _ => False) := by
  induction bs generalizing w with
  | nil => exact WriterMoves.refl w
  | cons b bs ih =>
    refine Res.Post.bind (emit_post b w) fun _ v h => (ih v).mono ?_ ?_ (fun _ h => h)
    · exact fun _ _ k => h.trans k
    · exact fun _ _ k => ⟨k.1, h.trans k.2⟩

/-! ### The reader -/

/-- The reader's moves: the window, the cursor and the input's position, nothing else. -/
structure ReaderMoves (w v : Work) : Prop where
  core : v.core = { w.core with
    rbCur := v.core.rbCur, rbPos := v.core.rbPos, rbLa0 := v.core.rbLa0, rbLa1 := v.core.rbLa1,
    rbLa1V := v.core.rbLa1V }
  ports : InputOnly w.ports v.ports
  forth : w.ports.inPos ≤ v.ports.inPos

theorem ReaderMoves.refl (w : Work) : ReaderMoves w w := ⟨rfl, rfl, le_refl _⟩

theorem ReaderMoves.trans {u v w : Work} (h : ReaderMoves u v) (k : ReaderMoves v w) : ReaderMoves u w := by
  refine ⟨?_, ?_, h.forth.trans k.forth⟩
  · rw [k.core, h.core]
  · rw [k.ports, h.ports]

theorem readOr_post (e : ErrKind) (w : Work) :
    (readOr e w).Post (fun _ v => ReaderMoves w v) (fun e' v => e' = e ∧ v = w) (fun _ => False) := by
  rcases readByte_cases w.ports with ⟨h, hr⟩ | ⟨h, hr⟩ <;> simp only [readOr, hr]
  · exact ⟨rfl, rfl, Nat.le_succ _⟩
  · exact ⟨rfl, rfl⟩

theorem checkFooter_cases (f : Byte) (w : Work) :
    ((footerCount f).isSome = true ∧ checkFooter f w = .ok () w) ∨
    (footerCount f = none ∧ checkFooter f w = .raised .corruptData w) := by
  unfold checkFooter
  cases footerCount f <;> simp

/-- Loading the window where a byte follows (R106, R107). -/
theorem loadWindow_more {cur la0 b : Byte} {w : Work} (h : w.ports.inData[w.ports.inPos]? = some b) :
    loadWindow cur la0 w =
      .ok () { core := { w.core with rbCur := cur, rbLa0 := la0, rbPos := 0, rbLa1 := b, rbLa1V := true }
               ports := { w.ports with inPos := w.ports.inPos + 1 } } := by
  simp [loadWindow, readByte_some h]

/-- Loading the window at the end of the input (R106, R107). -/
theorem loadWindow_last {cur la0 : Byte} {w : Work} (h : w.ports.inData.length ≤ w.ports.inPos) :
    loadWindow cur la0 w =
      checkFooter la0
        { core := { w.core with rbCur := cur, rbLa0 := la0, rbPos := 0, rbLa1 := 0, rbLa1V := false }
          ports := w.ports } := by
  simp [loadWindow, readByte_eos h]

/-- An error of the reader's bits is `CORRUPT_DATA`, after moves of the reader. -/
abbrev ReaderErr (w : Work) (e : ErrKind) (v : Work) : Prop := e = .corruptData ∧ ReaderMoves w v

theorem loadWindow_post (cur la0 : Byte) (w : Work) :
    (loadWindow cur la0 w).Post (fun _ v => ReaderMoves w v) (ReaderErr w) (fun _ => False) := by
  rcases readByte_cases w.ports with ⟨h, hr⟩ | ⟨h, hr⟩ <;> simp only [loadWindow, hr]
  · exact ⟨rfl, rfl, Nat.le_succ _⟩
  · rcases checkFooter_cases la0
      { core := { w.core with rbCur := cur, rbLa0 := la0, rbPos := 0, rbLa1 := 0, rbLa1V := false }
        ports := w.ports } with ⟨-, k⟩ | ⟨-, k⟩ <;> rw [k]
    · exact ⟨rfl, rfl, le_refl _⟩
    · exact ⟨rfl, rfl, rfl, le_refl _⟩

theorem prime_post (w : Work) : (prime w).Post (fun _ v => ReaderMoves w v) (ReaderErr w) (fun _ => False) := by
  refine Res.Post.bind (P := fun _ v => ReaderMoves w v) ((readOr_post _ w).mono (fun _ _ h => h) ?_ (fun _ h => h)) ?_
  · rintro e v ⟨rfl, rfl⟩; exact ⟨rfl, ReaderMoves.refl _⟩
  · intro cur u hu
    refine Res.Post.bind (P := fun _ v => ReaderMoves w v) ((readOr_post _ u).mono ?_ ?_ (fun _ h => h)) ?_
    · exact fun _ _ h => hu.trans h
    · rintro e v ⟨rfl, rfl⟩; exact ⟨rfl, hu⟩
    · intro la0 v hv
      exact (loadWindow_post cur la0 v).mono (fun _ _ h => hv.trans h) (fun _ _ h => ⟨h.1, hv.trans h.2⟩) (fun _ h => h)

/-- At the end of the stream no bit is given (R108). -/
theorem nextBit_end {w : Work} (h : w.core.rbEnd = true) : nextBit w = .raised .corruptData w := by
  simp [nextBit, h]

/-- A bit inside the current byte (R108). -/
theorem nextBit_inside {w : Work} (he : w.core.rbEnd = false) (hp : w.core.rbPos.toNat < 8)
    (hn : w.core.rbPos ≠ 7 ∨ w.core.rbLa1V = false) :
    nextBit w = .ok (w.core.rbCur.getLsbD (7 - w.core.rbPos.toNat)) (w.setCore w.core.moveCursor) := by
  have hq : ¬ (w.core.rbPos + 1 = 8 ∧ w.core.rbLa1V = true) := by
    rintro ⟨h, hv⟩
    rcases hn with hn | hn
    · exact hn (by bv_omega)
    · simp [hn] at hv
  have hl : ¬ 8 ≤ w.core.rbPos.toNat := by omega
  have hc : (w.setCore w.core.moveCursor).core.rbPos = w.core.rbPos + 1 := rfl
  have hv : (w.setCore w.core.moveCursor).core.rbLa1V = w.core.rbLa1V := rfl
  simp only [nextBit, he, Bool.false_eq_true, if_false, if_neg hl, hc, hv, if_neg hq]

/-- The last bit of a byte that is not the final one: the window moves on (R107, R108). -/
theorem nextBit_advance {w : Work} (he : w.core.rbEnd = false) (hp : w.core.rbPos = 7) (hv : w.core.rbLa1V = true) :
    nextBit w = (advance (w.setCore w.core.moveCursor)).bind fun _ v => .ok (w.core.rbCur.getLsbD 0) v := by
  simp [nextBit, he, hp, hv]

theorem moveCursor_moves (w : Work) : ReaderMoves w (w.setCore w.core.moveCursor) := ⟨rfl, rfl, le_refl _⟩

theorem nextBit_post (w : Work) :
    (nextBit w).Post (fun _ v => ReaderMoves w v) (ReaderErr w) (fun f => f = .cursorPastByte) := by
  unfold nextBit
  split
  · exact ⟨rfl, ReaderMoves.refl w⟩
  · split
    · rfl
    · simp only
      split
      · refine Res.Post.bind (P := fun _ v => ReaderMoves w v)
          ((loadWindow_post _ _ (w.setCore w.core.moveCursor)).mono ?_ ?_ (fun _ h => h.elim)) ?_
        · exact fun _ _ h => (moveCursor_moves w).trans h
        · exact fun _ _ h => ⟨h.1, (moveCursor_moves w).trans h.2⟩
        · exact fun _ _ h => h
      · exact moveCursor_moves w

theorem readBits_post (n : Nat) (v : Word) (w : Work) :
    (readBits n v w).Post (fun _ u => ReaderMoves w u) (ReaderErr w) (fun f => f = .cursorPastByte) := by
  induction n generalizing v w with
  | zero => exact ReaderMoves.refl w
  | succ n ih =>
    refine Res.Post.bind (nextBit_post w) fun b u h => (ih _ u).mono ?_ ?_ (fun _ h => h)
    · exact fun _ _ k => h.trans k
    · exact fun _ _ k => ⟨k.1, h.trans k.2⟩

/-! ### Loops over the input -/

theorem forBytes_eos {body : Byte → Work → Res Unit} {k : Nat} {w : Work} (h : w.ports.inData.length ≤ w.ports.inPos) :
    forBytes body (k + 1) w = .ok () w := by
  simp [forBytes, readByte_eos h, Work.setPorts]

theorem forBytes_byte {body : Byte → Work → Res Unit} {k : Nat} {w : Work} {b : Byte}
    (h : w.ports.inData[w.ports.inPos]? = some b) :
    forBytes body (k + 1) w =
      (body b (w.setPorts { w.ports with inPos := w.ports.inPos + 1 })).bind fun _ w => forBytes body k w := by
  simp [forBytes, readByte_some h]

/-! ### Reading after writing in the core's tables -/

@[simp] theorem freqOf_setFreq_same (c : Core) (b : Byte) (v : Word) : (c.setFreq b v).freqOf b = v := by
  simp [Core.freqOf]

theorem freqOf_setFreq_other (c : Core) {a b : Byte} (v : Word) (h : a ≠ b) :
    (c.setFreq b v).freqOf a = c.freqOf a := by
  have : b.toNat ≠ a.toNat := fun k => h (BitVec.eq_of_toNat_eq k.symm)
  simp [Core.freqOf, this]

@[simp] theorem nodeAt_setNode_same (c : Core) (i : Slot) (n : Node) (h : i ≠ Config.nullSlot) :
    (c.setNode i n).nodeAt i = n := by
  have : i.toNat < 511 := by
    have := i.isLt
    have : i.toNat ≠ 511 := fun k => h (BitVec.eq_of_toNat_eq (by simpa using k))
    omega
  simp [Core.nodeAt, this]

theorem nodeAt_setNode_other (c : Core) {i j : Slot} (n : Node) (h : j ≠ i) : (c.setNode i n).nodeAt j = c.nodeAt j := by
  have : i.toNat ≠ j.toNat := fun k => h (BitVec.eq_of_toNat_eq k.symm)
  simp [Core.nodeAt, this]

/-- The null index names no slot, so writing it writes nothing. -/
@[simp] theorem setNode_null (c : Core) (n : Node) : c.setNode Config.nullSlot n = c := by
  have : c.node.setIfInBounds 511 n = c.node := by
    ext i hi
    simp [show (511 : Nat) ≠ i by omega]
  simp [Core.setNode, this]

@[simp] theorem nodeAt_null (c : Core) : c.nodeAt Config.nullSlot = Node.empty := by
  simp [Core.nodeAt]

@[simp] theorem nodeAt_clearNodes (c : Core) (i : Slot) : c.clearNodes.nodeAt i = Node.empty := by
  simp only [Core.nodeAt, Core.clearNodes_node]
  by_cases h : i.toNat < 511 <;> simp [h]

@[simp] theorem codeLenOf_setCode_same (c : Core) (b len : Byte) (v : CodeWord) : (c.setCode b len v).codeLenOf b = len := by
  simp [Core.codeLenOf]

theorem codeLenOf_setCode_other (c : Core) {a b : Byte} (len : Byte) (v : CodeWord) (h : a ≠ b) :
    (c.setCode b len v).codeLenOf a = c.codeLenOf a := by
  have : b.toNat ≠ a.toNat := fun k => h (BitVec.eq_of_toNat_eq k.symm)
  simp [Core.codeLenOf, this]

@[simp] theorem codeBitsOf_setCode_same (c : Core) (b len : Byte) (v : CodeWord) :
    (c.setCode b len v).codeBitsOf b = v := by
  simp [Core.codeBitsOf]

theorem codeBitsOf_setCode_other (c : Core) {a b : Byte} (len : Byte) (v : CodeWord) (h : a ≠ b) :
    (c.setCode b len v).codeBitsOf a = c.codeBitsOf a := by
  have : b.toNat ≠ a.toNat := fun k => h (BitVec.eq_of_toNat_eq k.symm)
  simp [Core.codeBitsOf, this]

end Sys2Proof.Machine
end

