-- ==== Sys2Proof/Laws/Bodies.lean ====
section
/-! SUPPORT. The parts that more than one command's body is made of, said once: what each can end in, and what it may
have moved by then. -/

namespace Sys2Proof.Machine

/-! ### Writing -/

/-- The serializer moves only the writer; it is stuck only where the arena is no tree (R116). -/
theorem ser_post (d : Nat) (i : Slot) (w : Work) :
    (ser d i w).Post (fun _ v => WriterMoves w v) (WriterErr w) (fun f => f = .arenaNotATree) := by
  induction d generalizing i w with
  | zero => rfl
  | succ d ih =>
    unfold ser
    split
    · rfl
    · simp only
      split
      · exact (pushBits_post _ w).mono (fun _ _ h => h) (fun _ _ h => h) (fun _ h => h.elim)
      · refine Res.Post.bind (P := fun _ v => WriterMoves w v)
          ((pushBit_post false w).mono (fun _ _ h => h) (fun _ _ h => h) (fun _ h => h.elim)) fun _ u hu => ?_
        refine Res.Post.bind (P := fun _ v => WriterMoves w v)
          ((ih _ u).mono (fun _ _ h => hu.trans h) (fun _ _ h => ⟨h.1, hu.trans h.2⟩) (fun _ h => h)) fun _ v hv => ?_
        exact (ih _ v).mono (fun _ _ h => hv.trans h) (fun _ _ h => ⟨h.1, hv.trans h.2⟩) (fun _ h => h)

/-- A symbol's code moves only the writer; a symbol with no code raises `NO_CODE` and moves nothing (R122). -/
theorem encodeSym_post (b : Byte) (w : Work) :
    (encodeSym b w).Post (fun _ v => w.core.codeLenOf b ≠ 0 ∧ WriterMoves w v)
      (fun e v => (e = .noCode ∧ w.core.codeLenOf b = 0 ∧ v = w) ∨ WriterErr w e v) (fun _ => False) := by
  unfold encodeSym
  split
  · exact .inl ⟨rfl, ‹_›, rfl⟩
  · exact (pushBits_post _ w).mono (fun _ _ h => ⟨‹_›, h⟩) (fun _ _ h => .inr h) (fun _ h => h)

/-- `FINISH` moves only the writer (R126). -/
theorem finish_post (w : Work) : (finish w).Post (fun _ v => WriterMoves w v) (WriterErr w) (fun _ => False) := by
  refine Res.Post.bind (flushPartial_post w) fun _ u hu => ?_
  refine Res.Post.bind (P := fun _ v => WriterMoves w v)
    ((emit_post _ u).mono (fun _ _ h => hu.trans h) (fun _ _ h => ⟨h.1, hu.trans h.2⟩) (fun _ h => h)) fun _ v hv => ?_
  exact (flushOut_post v).mono (fun _ _ h => hv.trans h.1) (fun _ _ h => ⟨h.1, hv.trans h.2⟩) (fun _ h => h)

/-! ### Reading -/

/-- The walk down the tree moves only the reader (R127). -/
theorem decodeFrom_post (k : Nat) (i : Slot) (w : Work) :
    (decodeFrom k i w).Post (fun _ v => ReaderMoves w v) (ReaderErr w) (fun _ => True) := by
  induction k generalizing i w with
  | zero => trivial
  | succ k ih =>
    refine Res.Post.bind (P := fun _ v => ReaderMoves w v)
      ((nextBit_post w).mono (fun _ _ h => h) (fun _ _ h => h) (fun _ _ => trivial)) fun b u hu => ?_
    simp only
    split
    · split
      · trivial
      · split
        · exact hu
        · exact (ih _ u).mono (fun _ _ h => hu.trans h) (fun _ _ h => ⟨h.1, hu.trans h.2⟩) (fun _ h => h)
    · split
      · trivial
      · split
        · exact hu
        · exact (ih _ u).mono (fun _ _ h => hu.trans h) (fun _ _ h => ⟨h.1, hu.trans h.2⟩) (fun _ h => h)

/-- One symbol of the payload moves only the reader (R127). -/
theorem decodeOne_post (w : Work) :
    (decodeOne w).Post (fun _ v => ReaderMoves w v) (ReaderErr w) (fun _ => True) := by
  unfold decodeOne
  simp only
  split
  · trivial
  · split
    · refine Res.Post.bind (P := fun _ v => ReaderMoves w v)
        ((nextBit_post w).mono (fun _ _ h => h) (fun _ _ h => h) (fun _ _ => trivial)) fun b u hu => ?_
      split
      · exact ⟨rfl, hu⟩
      · exact hu
    · exact decodeFrom_post _ _ w

/-- The header's bytes: only the input's position moves, and the end of the input is `INVALID_HEADER` (R113). -/
theorem readHeader_post (n : Nat) (w : Work) :
    (readHeader n w).Post (fun bs v => bs.length = n ∧ ReaderMoves w v)
      (fun e v => e = .invalidHeader ∧ ReaderMoves w v) (fun _ => False) := by
  induction n generalizing w with
  | zero => exact ⟨rfl, ReaderMoves.refl w⟩
  | succ n ih =>
    refine Res.Post.bind (P := fun _ v => ReaderMoves w v)
      ((readOr_post _ w).mono (fun _ _ h => h) ?_ (fun _ h => h)) fun b u hu => ?_
    · rintro e v ⟨rfl, rfl⟩; exact ⟨rfl, ReaderMoves.refl _⟩
    · refine Res.Post.bind (P := fun bs v => bs.length = n ∧ ReaderMoves w v)
        ((ih u).mono (fun _ _ h => ⟨h.1, hu.trans h.2⟩) (fun _ _ h => ⟨h.1, hu.trans h.2⟩) (fun _ h => h)) ?_
      exact fun bs v hv => ⟨by simp [hv.1], hv.2⟩

/-! ### Counting and the tables -/

/-- A byte is counted, or its count is full (R82). -/
theorem countByte_cases (b : Byte) (w : Work) :
    (w.core.freqOf b = 0xFFFFFFFF ∧ countByte b w = .raised .countOverflow w) ∨
    (w.core.freqOf b ≠ 0xFFFFFFFF ∧ countByte b w = .ok () (w.setCore (w.core.setFreq b (w.core.freqOf b + 1)))) := by
  unfold countByte
  split
  · exact .inl ⟨‹_›, rfl⟩
  · exact .inr ⟨‹_›, rfl⟩

theorem mem_allSymbols (b : Byte) : b ∈ allSymbols := by
  simp only [allSymbols, List.mem_map, List.mem_range]
  exact ⟨b.toNat, b.isLt, by simp⟩

theorem allSymbols_length : allSymbols.length = 256 := by simp [allSymbols]

end Sys2Proof.Machine
end

