-- ==== Sys2Proof/Laws/Host.lean ====
section
/-! SUPPORT. The host's side: what a read and a write of the register space can do, each said once. -/

namespace Sys2Proof.Machine

/-! ### Reads -/

/-- A supported access reads the register that stands there, or 0. -/
theorem regRead_supported {off : Offset} (h : off.toNat % 4 = 0) (s : State) :
    regRead off 4 s = (regAt off).elim (0, s) fun r => readReg r s := by
  unfold regRead
  cases hr : regAt off <;> simp [supported, h]

theorem regRead_unsupported {off : Offset} {n : Nat} (h : supported off n = false) (s : State) :
    regRead off n s = (0, s) := by
  simp [regRead, h]

/-- What a read of a register can give: its word with nothing moved; of `STATUS` after an error the stored fields and free
mirror bits; or a free word on the register's defined bits, while `BUSY` is 1 or after an error. -/
theorem readReg_cases (r : Reg) (s : State) :
    (readReg r s = (regWord r s, s) ∧
      (r = .ctrl ∨ r = .cmd ∨ (r = .status ∧ s.err = false) ∨ (s.busy = false ∧ s.err = false))) ∨
    (r = .status ∧ s.err = true ∧
      readReg r s = ((statusWord s &&& statusDefined) ||| (Config.freeWord s.ports.draws &&& statusMirrors), s.drew)) ∨
    (r ≠ .ctrl ∧ r ≠ .status ∧ r ≠ .cmd ∧ (s.busy = true ∨ s.err = true) ∧
      readReg r s = (Config.freeWord s.ports.draws &&& r.definedBits, s.drew)) := by
  cases hb : s.busy <;> cases he : s.err <;> cases r <;> simp [readReg, regWord, hb, he]

/-- A read leaves the state, or counts one draw. -/
theorem regRead_state (off : Offset) (n : Nat) (s : State) :
    (regRead off n s).2 = s ∨ (regRead off n s).2 = s.drew := by
  unfold regRead
  split
  · cases regAt off with
    | none => exact .inl rfl
    | some r => rcases readReg_cases r s with ⟨h, -⟩ | ⟨-, -, h⟩ | ⟨-, -, -, -, h⟩ <;> simp [h]
  · exact .inl rfl

/-! ### Writes -/

theorem regWrite_supported {off : Offset} (h : off.toNat % 4 = 0) (v : Word) (s : State) :
    regWrite off 4 v s = (regAt off).elim s fun r => writeReg r v s := by
  unfold regWrite
  cases hr : regAt off <;> simp [supported, h]

theorem regWrite_unsupported {off : Offset} {n : Nat} (h : supported off n = false) (v : Word) (s : State) :
    regWrite off n v s = s := by
  simp [regWrite, h]

/-- What a write to a register can do. -/
theorem writeReg_cases (r : Reg) (v : Word) (s : State) :
    (r = .ctrl ∧ writeReg r v s = writeCtrl v s) ∨ (r = .status ∧ writeReg r v s = writeStatus v s) ∨
    (r = .cmd ∧ writeReg r v s = issue v s) ∨
    (r = .arg ∧ s.busy = false ∧ writeReg r v s = { s with core := { s.core with arg := v } }) ∨
    (∃ i, r = .freq i ∧ s.busy = false ∧
      writeReg r v s = { s with core := { s.core with freq := s.core.freq.set i.val v i.isLt } }) ∨
    writeReg r v s = s := by
  cases hb : s.busy <;> cases r <;> simp [writeReg, hb]

/-- What a write to `CMD` can do: the word is taken, or it is dropped and `CMD_LOST` set. -/
theorem issue_cases (w : Word) (s : State) :
    (s.busy = false ∧ (s.err = false ∨ w = 0x00000000 ∨ w = 0x00000001) ∧ issue w s = accept w s) ∨
    ((s.busy = true ∨ (s.err = true ∧ w ≠ 0x00000000 ∧ w ≠ 0x00000001)) ∧
      issue w s = { s with cmdLost := true }) := by
  unfold issue
  split
  · exact .inr ⟨.inl ‹_›, rfl⟩
  · split
    · exact .inr ⟨.inr (by simp_all), rfl⟩
    · exact .inl ⟨by simp_all, by cases he : s.err <;> simp_all; tauto, rfl⟩

end Sys2Proof.Machine
end

