-- ==== Sys2Proof/Laws/PerInstr.lean ====
section
/-! SUPPORT. A statement about every command as syntax: its word holds its opcode in bits 7:0, its operand in bits 15:8
and 0 above (`30_encoding.md` R61), and it is well-formed exactly when the decoder takes that word (R63, R67). One lemma
per constructor. -/

namespace Sys2Proof.Laws.EncodeFields

/-- The three fields of a command's word, and when the decoder takes it. -/
def Statement (i : Instr) : Prop :=
  opcField (encode i) = i.opc ∧ opdField (encode i) = i.opd ∧ mbzField (encode i) = 0 ∧
    (i.wellFormed = true ↔ decode (encode i) = .instr i)

theorem nop : Statement .nop := by unfold Statement; decide
theorem softReset : Statement .softReset := by unfold Statement; decide
theorem freqClear : Statement .freqClear := by unfold Statement; decide
theorem freqCount : Statement .freqCount := by unfold Statement; decide
theorem buildTree : Statement .buildTree := by unfold Statement; decide
theorem genCodes : Statement .genCodes := by unfold Statement; decide
theorem wrMagic : Statement .wrMagic := by unfold Statement; decide
theorem pushBits (n : Byte) : Statement (.pushBits n) := by revert n; unfold Statement; decide +kernel
theorem serTree : Statement .serTree := by unfold Statement; decide
theorem encSym (sym : Byte) : Statement (.encSym sym) := by revert sym; unfold Statement; decide +kernel
theorem encStream : Statement .encStream := by unfold Statement; decide
theorem flushPartial : Statement .flushPartial := by unfold Statement; decide
theorem finish : Statement .finish := by unfold Statement; decide
theorem rdMagic : Statement .rdMagic := by unfold Statement; decide
theorem pullBits (n : Byte) : Statement (.pullBits n) := by revert n; unfold Statement; decide +kernel
theorem deserTree : Statement .deserTree := by unfold Statement; decide
theorem decSym : Statement .decSym := by unfold Statement; decide
theorem decStream : Statement .decStream := by unfold Statement; decide
theorem compress : Statement .compress := by unfold Statement; decide
theorem decompress : Statement .decompress := by unfold Statement; decide

end Sys2Proof.Laws.EncodeFields
end

