-- ==== Sys2Proof/Tests/Slice0.lean ====
section
/-! SUPPORT. Small tests: the ill-formed terms the checks refuse, one word per command written out from the spec's
encoding, one or two steps per command with values from `95_test_vectors.md`, and for each statement with hypotheses a
witness that meets them. -/

namespace Sys2Proof.Tests

set_option Elab.async false -- one test at a time: the tests share no work, and each thread costs memory

open Sys2Proof Sys2Proof.Machine

/-! ### Small states -/

/-- The launch of the vectors: the marker 48 55 46 01, both ports connected, every write and flush answered `ok`. -/
def start (input : List Byte) : State :=
  State.launched { magic := #v[0x48, 0x55, 0x46, 0x01], inPresent := true, outPresent := true } input
    (List.replicate 64 .ok) []

/-- The state a command leaves. -/
def after (i : Instr) (s : State) : State :=
  match exec i s with
  | .next t => t
  | .fault _ => s
  | .refused _ => s

/-- s with another core state. -/
def withCore (s : State) (c : Core) : State := { s with core := c }

/-- `DONE`, `ERR` and `ERRCODE`. -/
def ended (s : State) : Bool × Bool × Nat := (s.done, s.err, s.errcode.toNat)

/-- The file of "AB" (X1). -/
def fileAB : List Byte := [0x48, 0x55, 0x46, 0x01, 0x50, 0x68, 0x48, 0x08]

/-- Bits in the writer. -/
def buffer (acc : Byte) (cnt : BitVec 3) : Core := { Core.zero with wbAcc := acc, wbCnt := cnt }

/-- The counts of a list of symbols. -/
def counts (l : List (Byte × Word)) : Core := l.foldl (fun c p => c.setFreq p.1 p.2) Core.zero

/-- The arena of V-BLD-1, written out: A and B under slot 0x100, with their codes. -/
def treeAB : Core :=
  let leaf (b : Byte) (side : Bool) : Node :=
    { valid := true, leaf := true, side := side, sym := b, minSym := b, parent := 0x100, c0 := 0x1FF, c1 := 0x1FF, w := 1 }
  let top : Node :=
    { valid := true, leaf := false, side := false, sym := 0, minSym := 0x41, parent := 0x1FF, c0 := 0x41, c1 := 0x42, w := 2 }
  let c := (((Core.zero.setNode 0x41 (leaf 0x41 false)).setNode 0x42 (leaf 0x42 true)).setNode 0x100 top)
  let c := (c.setCode 0x41 1 0).setCode 0x42 1 (1#256 <<< 255)
  { c with treeV := true, root := 0x100, nleaf := 2, codesV := true }

/-- The arena of V-BLD-9, written out: the one leaf A. -/
def treeA : Core :=
  let c := Core.zero.setNode 0x41
    { valid := true, leaf := true, side := false, sym := 0x41, minSym := 0x41, parent := 0x1FF, c0 := 0x1FF, c1 := 0x1FF, w := 3 }
  { c with treeV := true, root := 0x41, nleaf := 1 }

/-- An open reader at the first bit of a stream of at least three bytes. -/
def opened (c : Core) (cur la0 la1 : Byte) : Core :=
  { c with hdrOk := true, rbCur := cur, rbLa0 := la0, rbLa1 := la1, rbLa1V := true }

/-- An open reader on the stream's final data byte. -/
def atLast (c : Core) (cur foot : Byte) (pos : BitVec 4) : Core :=
  { c with hdrOk := true, rbCur := cur, rbLa0 := foot, rbPos := pos }

/-- An open reader of a stream d of at least three bytes, the rest of it still in IN. -/
def reading (c : Core) (d : List Byte) : State :=
  withCore (start (d.drop 3)) (opened c (d.getD 0 0) (d.getD 1 0) (d.getD 2 0))

def treeOfAB : Tree := .node (.leaf 0x41) (.leaf 0x42)

/-- A tree of n internal nodes in one chain. -/
def chain : Nat → Tree
  | 0 => .leaf 0
  | n + 1 => .node (.leaf 0) (chain n)

/-- The stream of the chain of 255 internal nodes: the bits 0 1 00000000, 255 times, then 1 00000000; 2559 bits. -/
def chainStream : List Byte :=
  (List.replicate 63 [0x40, 0x10, 0x04, 0x01, 0x00]).flatten ++ [0x40, 0x10, 0x04, 0x02, 0x00, 0x02]

/-- The stream of the chain of 256 internal nodes: 2569 bits. -/
def longChainStream : List Byte :=
  (List.replicate 64 [0x40, 0x10, 0x04, 0x01, 0x00]).flatten ++ [0x80, 0x00, 0x80]

/-- Whether a step has a next state. -/
def goesOn (r : Host.Outcome State Fault Refusal) : Bool :=
  match r with
  | .next _ => true
  | .fault _ => false
  | .refused _ => false

/-! ### Ill-formed terms (R63) -/

theorem test_push_count_zero_refused : (Instr.pushBits 0).wellFormed = false := by decide
theorem test_push_count_33_refused : (Instr.pushBits 33).wellFormed = false := by decide
theorem test_pull_count_zero_refused : (Instr.pullBits 0).wellFormed = false := by decide
theorem test_pull_count_255_refused : (Instr.pullBits 255).wellFormed = false := by decide
theorem test_counts_accepted :
    (Instr.pushBits 1).wellFormed && (Instr.pushBits 32).wellFormed && (Instr.pullBits 1).wellFormed &&
      (Instr.pullBits 32).wellFormed && (Instr.encSym 0).wellFormed && (Instr.encSym 255).wellFormed = true := by decide

/-! ### One word per command, `MBZ` then `OPD` then `OPC` (R61, R64) -/

theorem test_word_nop : decode 0b0000000000000000_00000000_00000000 = .instr .nop := by decide
theorem test_word_soft_reset : decode 0b0000000000000000_00000000_00000001 = .instr .softReset := by decide
theorem test_word_freq_clear : decode 0b0000000000000000_00000000_00010000 = .instr .freqClear := by decide
theorem test_word_freq_count : decode 0b0000000000000000_00000000_00010001 = .instr .freqCount := by decide
theorem test_word_build_tree : decode 0b0000000000000000_00000000_00100000 = .instr .buildTree := by decide
theorem test_word_gen_codes : decode 0b0000000000000000_00000000_00100001 = .instr .genCodes := by decide
theorem test_word_wr_magic : decode 0b0000000000000000_00000000_00110000 = .instr .wrMagic := by decide
theorem test_word_push_bits : decode 0b0000000000000000_00000101_00110001 = .instr (.pushBits 5) := by decide
theorem test_word_ser_tree : decode 0b0000000000000000_00000000_00110010 = .instr .serTree := by decide
theorem test_word_enc_sym : decode 0b0000000000000000_01000001_00110011 = .instr (.encSym 0x41) := by decide
theorem test_word_enc_stream : decode 0b0000000000000000_00000000_00110100 = .instr .encStream := by decide
theorem test_word_flush_partial : decode 0b0000000000000000_00000000_00110101 = .instr .flushPartial := by decide
theorem test_word_finish : decode 0b0000000000000000_00000000_00110110 = .instr .finish := by decide
theorem test_word_rd_magic : decode 0b0000000000000000_00000000_01000000 = .instr .rdMagic := by decide
theorem test_word_pull_bits : decode 0b0000000000000000_00100000_01000001 = .instr (.pullBits 32) := by decide
theorem test_word_deser_tree : decode 0b0000000000000000_00000000_01000010 = .instr .deserTree := by decide
theorem test_word_dec_sym : decode 0b0000000000000000_00000000_01000011 = .instr .decSym := by decide
theorem test_word_dec_stream : decode 0b0000000000000000_00000000_01000100 = .instr .decStream := by decide
theorem test_word_compress : decode 0b0000000000000000_00000000_01010000 = .instr .compress := by decide
theorem test_word_decompress : decode 0b0000000000000000_00000000_01010001 = .instr .decompress := by decide

/-- R63, R65: an operand where none is taken, a nonzero `MBZ`, a reserved opcode, a count of 33. -/
theorem test_malformed_words :
    decode 0x00000100 = .malformed .operandNotZero ∧ decode 0x00010000 = .malformed .mbzNonzero ∧
    decode 0x00000002 = .malformed .reservedOpcode ∧ decode 0x00002131 = .malformed .countOutOfRange := by decide

/-- The assembler's lines of R68. -/
theorem test_asm : (Instr.pushBits 5).asm = "PUSH_BITS 5" ∧ Instr.buildTree.asm = "BUILD_TREE" := by decide

/-! ### One step of each command (`95_test_vectors.md`) -/

/-- V-CTL-1. -/
theorem test_nop : statusWord (after .nop (start [])) = 0x00000002 := by decide +kernel

/-- V-CTL-8, V-CTL-11: from the FAILED state with `CTRL` 1. -/
theorem test_soft_reset :
    let s := after .softReset { start [] with ie := true, err := true, errcode := 1, cmdLost := true, core := treeAB }
    statusWord s = 0x00010002 ∧ ctrlWord s = 1 ∧ irq s = true ∧ regWord .tree s = 0 := by decide +kernel

/-- V-FRQ-5. -/
theorem test_freq_clear :
    let s := after .freqClear (withCore (start []) (counts [(0x41, 5), (0xFF, 7)]))
    s.core.freqOf 0x41 = 0 ∧ s.core.freqOf 0xFF = 0 ∧ s.core.freqOf 0 = 0 := by decide +kernel

/-- V-FRQ-1. -/
theorem test_freq_count :
    let s := after .freqCount (start [0x41, 0x42, 0x52, 0x41, 0x43, 0x41, 0x44, 0x41, 0x42, 0x52, 0x41])
    s.core.freqOf 0x41 = 5 ∧ s.core.freqOf 0x42 = 2 ∧ s.core.freqOf 0x43 = 1 ∧ s.core.freqOf 0x52 = 2 ∧
      s.ports.inPos = 11 := by decide +kernel

/-- V-FRQ-3. -/
theorem test_freq_count_overflow :
    let s := after .freqCount (withCore (start [0x41]) (counts [(0x41, 0xFFFFFFFF)]))
    ended s = (true, true, 8) ∧ s.ports.inPos = 1 := by decide +kernel

/-- V-BLD-2: the tie at weight 3 goes to the merged node, whose minimum symbol is smaller. -/
theorem test_build_tree :
    let s := after .buildTree (withCore (start []) (counts [(0x41, 2), (0x42, 3), (0x43, 1)]))
    (s.core.nodeAt 0x100).c0 = 0x43 ∧ (s.core.nodeAt 0x100).c1 = 0x41 ∧ (s.core.nodeAt 0x101).c0 = 0x100 ∧
      (s.core.nodeAt 0x101).c1 = 0x42 ∧ regWord .tree s = 0x00030101 := by decide +kernel

/-- V-BLD-8: the sum of two full counts does not wrap. -/
theorem test_build_tree_wide_weight :
    let s := after .buildTree (withCore (start []) (counts [(0x41, 0xFFFFFFFF), (0x42, 0xFFFFFFFF)]))
    regWord (.node 0x100 4) s = 0xFFFFFFFE ∧ regWord (.node 0x100 5) s = 1 := by decide +kernel

/-- V-BLD-1. -/
theorem test_gen_codes :
    let s := after .genCodes (withCore (start []) treeAB)
    regWord (.codeLen 0x42) s = 1 ∧ regWord (.codeBits 0x42 0) s = 0x80000000 ∧ regWord (.codeBits 0x41 0) s = 0 := by
  decide +kernel

/-- V-BLD-9: a single leaf has the code 0, of length 1. -/
theorem test_gen_codes_single :
    (after .genCodes (withCore (start []) treeA)).core.codeOf 0x41 = [false] := by decide +kernel

/-- V-WR-7. -/
theorem test_wr_magic : (after .wrMagic (start [])).ports.outData = [0x48, 0x55, 0x46, 0x01] := by decide +kernel

/-- V-WR-10, with a sink that keeps the byte 09 of the failed one. -/
theorem test_wr_magic_failing :
    let s := start []
    let t := after .wrMagic { s with ports := { s.ports with sinkPlan := [.ok, .ok, .fail [0x09]] } }
    t.ports.outData = [0x48, 0x55, 0x09] ∧ ended t = (true, true, 3) := by decide +kernel

/-- V-WR-2. -/
theorem test_push_bits :
    let s := after (.pushBits 5) (withCore (start []) { buffer 0xA0 3 with arg := 0x13 })
    s.ports.outData = [0xB3] ∧ regWord .wb s = 0 := by decide +kernel

/-- V-WR-3. -/
theorem test_push_bits_32 :
    (after (.pushBits 32) (withCore (start []) { Core.zero with arg := 0xDEADBEEF })).ports.outData =
      [0xDE, 0xAD, 0xBE, 0xEF] := by decide +kernel

/-- V-TC-1. -/
theorem test_ser_tree :
    let s := after .serTree (withCore (start []) treeAB)
    s.ports.outData = [0x50, 0x68] ∧ regWord .wb s = 0x340 := by decide +kernel

/-- R122 with V-BLD-1: the code of B is the bit 1. -/
theorem test_enc_sym : regWord .wb (after (.encSym 0x42) (withCore (start []) treeAB)) = 0x180 := by decide +kernel

/-- V-PAY-2: no code, so `NO_CODE`. -/
theorem test_enc_sym_no_code : ended (after (.encSym 0x5A) (withCore (start []) treeAB)) = (true, true, 9) := by
  decide +kernel

/-- V-PAY-4: after the 19 tree bits, the payload `01`. -/
theorem test_enc_stream :
    let s := after .encStream (withCore (start [0x41, 0x42]) { treeAB with wbAcc := 0x40, wbCnt := 3 })
    regWord .wb s = 0x548 ∧ s.ports.inPos = 2 := by decide +kernel

/-- V-WR-11. -/
theorem test_flush_partial :
    let s := after .flushPartial (withCore (start []) (buffer 0xA0 3))
    s.ports.outData = [0xA0] ∧ regWord .wb s = 0 := by decide +kernel

/-- V-WR-13, and c = 3 of the table below it. -/
theorem test_finish :
    (after .finish (start [])).ports.outData = [0x01] ∧
    (after .finish (withCore (start []) (buffer 0xE0 3))).ports.outData = [0xE0, 0x20] := by decide +kernel

/-- V-RD-1. -/
theorem test_rd_magic :
    let s := after .rdMagic (start fileAB)
    regWord .rb0 s = 0x48688050 ∧ regWord .rb1 s = 1 ∧ s.ports.inPos = 7 := by decide +kernel

/-- V-RD-9. -/
theorem test_rd_magic_bad :
    let s := after .rdMagic (start [0x48, 0x55, 0x47, 0x01, 0x50, 0x68, 0x48, 0x08])
    ended s = (true, true, 4) ∧ s.ports.inPos = 4 := by decide +kernel

/-- V-RD-2. -/
theorem test_pull_bits :
    let s := after (.pullBits 10) (reading Core.zero (fileAB.drop 4))
    regWord .result s = 0x141 ∧ regWord .rb0 s = 0x08488268 := by decide +kernel

/-- V-RD-7. -/
theorem test_pull_bits_short : ended (after (.pullBits 32) (reading Core.zero (fileAB.drop 4))) = (true, true, 5) := by
  decide +kernel

/-- V-TC-4. -/
theorem test_deser_tree :
    let s := after .deserTree (reading Core.zero (fileAB.drop 4))
    regWord .tree s = 0x00020000 ∧ regWord (.node 0 3) s = 2 ∧ regWord (.node 2 0) s = 0x4207 ∧
      regWord .rb0 s = 0x00085348 := by decide +kernel

/-- V-PAY-7: A, then (past the last valid bit) the end marker 0x100. -/
theorem test_dec_sym :
    regWord .result (after .decSym (withCore (start []) (atLast treeAB 0x48 0x08 3))) = 0x41 ∧
    regWord .result (after .decSym (withCore (start []) (atLast treeAB 0x48 0x08 5))) = 0x100 := by decide +kernel

/-- V-PAY-8. -/
theorem test_dec_stream :
    let s := after .decStream (withCore (start []) (atLast treeAB 0x48 0x08 3))
    s.ports.outData = [0x41, 0x42] ∧ regWord .rb1 s = 6 := by decide +kernel

/-- X1. -/
theorem test_compress :
    let s := after .compress (start [0x41, 0x42])
    s.ports.outData = fileAB ∧ regWord .tree s = 0x00020100 ∧ s.ports.inPos = 2 := by decide +kernel

/-- X1. -/
theorem test_decompress :
    let s := after .decompress (start fileAB)
    s.ports.outData = [0x41, 0x42] ∧ regWord .tree s = 0x00020000 ∧ s.ports.inPos = 8 := by decide +kernel

/-- R45, R46: while a command is in flight `CMD` reads 0, and so does a node slot's word 7, all of it reserved. -/
theorem test_reads_while_busy :
    (regRead 0x0008 4 (accept 0x00000034 (start []))).1 = 0 ∧
    (regRead 0x101C 4 (accept 0x00000034 (start []))).1 = 0 := by
  have h : regAt 0x101C = some (.node 0 7) := by decide
  refine ⟨rfl, ?_⟩
  rw [regRead_supported (by decide), h]
  simp [readReg, Reg.definedBits, accept]

/-! ### Witnesses: states and operands that meet the hypotheses of the statements

Each names the statement it serves, and holds for each of its clauses, at the boundary values where there are some. -/

/-- A launch whose next core move is the command's. -/
def pending (i : Instr) (s : State) : State := accept (encode i) s

/-- A launch in the FAILED state. -/
def failedState (s : State) : State := { s with err := true, errcode := 1, done := true, lastOpc := 0x02 }

/-- Without the port IN. -/
def noIn (s : State) : State := { s with launch := { s.launch with inPresent := false } }

/-- With the sink's next answers. -/
def answers (l : List SinkAnswer) (s : State) : State := { s with ports := { s.ports with sinkPlan := l } }

/-- With a sink that takes k bytes and then fails, keeping the byte 09. -/
def failing (k : Nat) (s : State) : State := answers (List.replicate k .ok ++ [.fail [9]]) s

theorem failsAfter_failing (k : Nat) (s : State) : FailsAfter k (failing k s).ports := ⟨[9], [], rfl⟩

theorem witness_DecodeReadsEncode : (Instr.pushBits 1).wellFormed ∧ (Instr.pushBits 32).wellFormed := by decide

theorem witness_EncodeInvertsDecode : decode 0x00002041 = .instr (.pullBits 32) := by decide

theorem witness_MalformedWords :
    decode ({ start [] with busy := true, pending := 0x00000100 } : State).pending = .malformed .operandNotZero := by
  decide

theorem witness_StepRunsDecodedCommand :
    (let s := pending (.pushBits 1) (start []); s.busy = true ∧ s.agenda = [] ∧ decode s.pending = .instr (.pushBits 1)) ∧
    (let s := pending .nop { start [] with agenda := [.core, .hardReset] }
     s.busy = true ∧ s.agenda = .core :: [.hardReset] ∧ decode s.pending = .instr .nop) ∧
    (Instr.pushBits 32).wellFormed = true ∧
    (let s := accept 0x00002131 (start [])
     s.busy = true ∧ s.agenda = [] ∧ decode s.pending = .malformed .countOutOfRange) ∧
    (let s := accept 0x00000031 { start [] with agenda := [.core] }
     s.busy = true ∧ s.agenda = .core :: [] ∧ decode s.pending = .malformed .countOutOfRange) := by decide +kernel

theorem witness_StepTakesEventsInOrder :
    ((start []).busy = false ∧ (start []).agenda = []) ∧
    (let s : State := { start [] with agenda := [.core] }; s.busy = false ∧ s.agenda = .core :: []) ∧
    (let s : State := { start [] with agenda := [.hardReset] }; s.agenda = .hardReset :: []) ∧
    (let s : State := { start [] with agenda := [.write 0x0008 4 1] }; s.agenda = .write 0x0008 4 1 :: []) ∧
    (let s : State := { start [] with agenda := [.read 0x0004 4] }; s.agenda = .read 0x0004 4 :: []) := by
  decide +kernel

theorem witness_NopOnlyCompletes :
    (let s : State := { start [] with busy := true, pending := 0x00000100 }
     s.pending.toNat % 256 = 0 ∧ s.pending ≠ 0) ∧
    ((0x00000100 : Word).toNat % 256 = 0 ∧ (0x00000100 : Word) ≠ 0) ∧
    (failedState (start [])).busy = false ∧ (failedState (start [])).err = true := by decide +kernel

theorem witness_HardResetClearsCoreState : (pending .decStream (start [])).agenda = [] := by rfl

theorem witness_CommandAcceptance :
    (pending .nop (start [])).busy = true ∧
    ((failedState (start [])).busy = false ∧ (failedState (start [])).err = true ∧ (0x00000002 : Word) ≠ 0 ∧
      (0x00000002 : Word) ≠ 1) ∧
    (start []).busy = false ∧ (start []).err = false := by decide +kernel

theorem witness_EveryCommandCompletes :
    exec .freqClear (pending .freqClear (start [])) = .next (after .freqClear (pending .freqClear (start []))) ∧
    (pending .freqClear (start [])).lastOpc = Instr.freqClear.opc ∧
    coreStep (pending .freqClear (start [])) = .next (after .freqClear (pending .freqClear (start []))) ∧
    (let s := pending .freqClear (start []); s.lastOpc = s.pending.extractLsb' 0 8) :=
  ⟨rfl, by decide +kernel, rfl, by decide +kernel⟩

theorem witness_ChecksInOrder :
    decode (0x00000131 : Word) = .instr (.pushBits 1) ∧ decode (0x00000031 : Word) = .malformed .countOutOfRange ∧
    (Instr.decStream.wellFormed = true ∧ ¬ PortsReady .decStream (noIn (start []))) ∧
    (Instr.decSym.wellFormed = true ∧ PortsReady .decSym (start []) ∧ ¬ Needs .decSym (start []).core) := by
  decide +kernel

theorem witness_ErrorsOnlyFromTheirCommands :
    (start []).err = false ∧ exec .buildTree (start []) = .next (raise .emptyInput (start [])) ∧
    (raise .emptyInput (start [])).err = true := ⟨rfl, by
      have h : present (start []).core = [] := by decide +kernel
      simp [exec, execBuildTree, checked, buildTree, State.work, h, settle, State.setWork], rfl⟩

theorem witness_OutOfMemoryNeverRaised :
    (start []).errcode ≠ 2 ∧ step (pending .nop (start [])) = .next (after .nop (pending .nop (start []))) :=
  ⟨by decide, rfl⟩

theorem witness_FailedUntilReset :
    let s := pending .softReset (failedState (start []))
    Inv s ∧ s.err = true ∧ step s = .next (after .softReset s) := ⟨by decide +kernel, rfl, rfl⟩

theorem coreInv_treeAB : CoreInv treeAB := by decide +kernel

theorem coreInv_treeA : CoreInv treeA := by decide +kernel

theorem witness_StepKeepsInvariant :
    let s := pending .genCodes (withCore (start [0x41]) treeAB)
    Inv s ∧ goesOn (step s) = true :=
  ⟨⟨by decide +kernel, by decide +kernel, fun _ => coreInv_treeAB⟩, by decide +kernel⟩

theorem witness_StepNeverStops : Inv (withCore (start []) treeA) :=
  ⟨by decide +kernel, by decide +kernel, fun _ => coreInv_treeA⟩

theorem witness_LaunchFixedOutputGrows :
    step (pending .nop (start [7])) = .next (after .nop (pending .nop (start [7]))) := rfl

theorem witness_CommandFrames_PortFrames :
    exec .nop (start [7]) = .next (after .nop (start [7])) ∧ (after .nop (start [7])).err = false ∧
    exec .softReset (start [7]) = .next (after .softReset (start [7])) ∧ (after .softReset (start [7])).err = false ∧
    needsIn .serTree = false ∧ needsOut .freqCount = false :=
  ⟨rfl, rfl, rfl, rfl, rfl, rfl⟩

/-- A command that ends in an error: no tree, so `SEQUENCE_ERROR`. -/
theorem witness_PortFrames_error : goesOn (exec .serTree (start [7])) = true ∧ (after .serTree (start [7])).err = true := by
  decide +kernel

/-- The first and the last offset of every reserved range. -/
theorem witness_RegisterMapInverse_reserved :
    ([0x0024, 0x03FC, 0x0800, 0x0FFC, 0x4FE0, 0x5FFC, 0x6400, 0x6FFC, 0x9000, 0xFFFC] : List Offset).all
      (fun off => off.toNat % 4 == 0 && ReservedOffset off) = true := by decide +kernel

/-- Their neighbours are mapped. -/
theorem witness_RegisterMapInverse_mapped :
    ([0x0020, 0x0400, 0x07FC, 0x1000, 0x4FDC, 0x6000, 0x63FC, 0x7000, 0x8FFC] : List Offset).all
      (fun off => off.toNat % 4 == 0 && !ReservedOffset off) = true := by decide +kernel

theorem witness_RegisterMapInverse :
    (0x8FFC : Offset).toNat % 4 = 0 ∧ regAt 0x8FFC = some (.codeBits 255 7) ∧ regAt 0x4FDC = some (.node 510 7) ∧
    regAt 0x07FC = some (.freq 255) ∧ regAt 0x0020 = some .rb1 := by decide

/-- Slot 0 of the arena of V-BLD-1 is invalid. -/
theorem witness_NodeWordLayout :
    SlotsOk (withCore (start []) treeAB).core ∧ ((withCore (start []) treeAB).core.node[(0 : Fin 511)]).valid = false :=
  ⟨coreInv_treeAB.2.2.1, by decide +kernel⟩

theorem witness_ReadGivesRegister : (start []).busy = false ∧ (start []).err = false := by decide

theorem witness_UnsupportedAccessIgnored :
    ((2 : Nat) ≠ 4) ∧ (0x0002 : Offset).toNat % 4 ≠ 0 := by decide

theorem witness_ReservedBitsReadZero :
    ((0x0024 : Offset).toNat % 4 = 0 ∧ ReservedOffset 0x0024) ∧
    ((0x4FC0 : Nat) = 0x1000 + 32 * (510 : Fin 511).val) ∧
    (Reg.node 510 7 = .result ∨ ∃ i w, Reg.node 510 7 = .node i w) :=
  ⟨by decide +kernel, rfl, .inr ⟨510, 7, rfl⟩⟩

theorem witness_HostWritesArgAndFreq :
    (start []).busy = false ∧ (pending .nop (start [])).busy = true ∧ (0x000C : Offset) ≠ 0x0000 ∧
    (0x000C : Offset) ≠ 0x0004 ∧ (0x000C : Offset) ≠ 0x0008 := by decide

theorem witness_IrqIsLevel :
    (0x00000002 : Word).getLsbD 1 = true ∧ ((start []).busy = false ∧ (start []).err = false) ∧
    (0x00000002 : Word).getLsbD 0 = false := by decide

theorem witness_StatusAfterError : (failedState (start [])).err = true := by decide

/-- The final byte with all its bits valid, and with one; a byte before the final one; a closed reader. -/
theorem witness_StatusLayout_ViewLayouts :
    (let c := atLast Core.zero 0x48 0x01 8
     c.hdrOk = true ∧ c.rbLa1V = false ∧ c.rbLa0 = BitVec.ofNat 8 (2 ^ (0 : Fin 8).val) ∧
       c.rbPos.toNat = 8 - (0 : Fin 8).val) ∧
    (let c := atLast Core.zero 0x48 0x80 0
     c.hdrOk = true ∧ c.rbLa1V = false ∧ c.rbLa0 = BitVec.ofNat 8 (2 ^ (7 : Fin 8).val) ∧
       c.rbPos.toNat ≠ 8 - (7 : Fin 8).val) ∧
    (let c := opened Core.zero 0x50 0x68 0x48; c.hdrOk = true ∧ c.rbLa1V = true) ∧ Core.zero.hdrOk = false ∧
    (7 : Fin 8).val = (255 : Fin 256).val / 32 := by decide +kernel

theorem witness_FreqCountAddsInput :
    (let s := withCore (start [0x41, 0x41]) (Core.zero.setFreq 0x41 0xFFFFFFFD)
     s.launch.inPresent = true ∧ s.ports.inPos ≤ s.ports.inData.length ∧
     ∀ b : Byte, (s.core.freqOf b).toNat + (s.ports.inData.drop s.ports.inPos).count b < 2 ^ 32) ∧
    (let s := withCore (start [0x41, 0x41]) (Core.zero.setFreq 0x41 0xFFFFFFFE)
     s.launch.inPresent = true ∧ (noIn s).launch.inPresent = false ∧
     s.ports.inData.drop s.ports.inPos = [0x41] ++ 0x41 :: [] ∧
     (∀ c : Byte, (s.core.freqOf c).toNat + [(0x41 : Byte)].count c < 2 ^ 32) ∧
     (s.core.freqOf 0x41).toNat + [(0x41 : Byte)].count 0x41 = 2 ^ 32 - 1) := by
  refine ⟨⟨rfl, by decide, fun b => ?_⟩, rfl, rfl, rfl, fun b => ?_, ?_⟩
  · by_cases h : b = 0x41
    · subst h; simp [withCore, start, State.launched]
    · have hb : (0x41#8 == b) = false := by simpa using Ne.symm h
      simpa [withCore, start, State.launched, List.count_cons, hb] using BitVec.isLt _
  · by_cases h : b = 0x41
    · subst h; simp [withCore, start, State.launched]
    · have hb : (0x41#8 == b) = false := by simpa using Ne.symm h
      simpa [withCore, start, State.launched, List.count_cons, hb] using BitVec.isLt _
  · simp [withCore]

theorem witness_BuildTreeRefinesSortedMerge_WeightsNeverWrap :
    ∃ b : Byte, (withCore (start []) (counts [(0xFF, 0xFFFFFFFF), (0, 1)])).core.freqOf b ≠ 0 :=
  ⟨0xFF, by decide +kernel⟩

theorem witness_BuildTreeArena :
    (let s := withCore (start []) (counts [(0x41, 3)])
     1 = (allSymbols.filter fun b => s.core.freqOf b != 0).length) ∧
    (let s := withCore (start []) { Core.zero with freq := Vector.replicate 256 1 }
     256 = (allSymbols.filter fun b => s.core.freqOf b != 0).length) := by decide +kernel

theorem witness_BuildTreeEmptyInput : ∀ b : Byte, (start [1, 2]).core.freqOf b = 0 := by decide +kernel

theorem witness_GenCodesFromPaths :
    (CoreInv treeAB ∧ treeAB.treeV = true ∧ treeAB.treeSrc = false ∧ treeAB.tree = some treeOfAB) ∧
    (CoreInv treeA ∧ treeA.treeV = true ∧ treeA.treeSrc = false ∧ treeA.tree = some (.leaf 0x41)) :=
  ⟨⟨coreInv_treeAB, by decide +kernel⟩, coreInv_treeA, by decide +kernel⟩

theorem witness_CodesArePrefixFree :
    (CoreInv treeAB ∧ treeAB.treeV = true ∧ treeAB.treeSrc = false ∧ 2 ≤ treeAB.nleaf.toNat ∧
      treeAB.codeOf 0x41 ≠ [] ∧ treeAB.codeOf 0x42 ≠ []) ∧
    (CoreInv treeA ∧ treeA.treeV = true ∧ treeA.treeSrc = false ∧ treeA.nleaf.toNat = 1) :=
  ⟨⟨coreInv_treeAB, by decide +kernel⟩, coreInv_treeA, by decide +kernel⟩

theorem witness_PushBitsAppendsArg :
    let s := withCore (start []) (buffer 0xFE 7)
    s.launch.outPresent = true ∧ WriterOk s.core ∧ OksAhead 4 s.ports ∧ 1 ≤ (32 : Byte).toNat ∧ (32 : Byte).toNat ≤ 32 ∧
      (0 : Byte).toNat = 0 ∧ 32 < (33 : Byte).toNat := by decide +kernel

/-- The first byte filled fails; the fourth does. -/
theorem witness_PushBitsAppendsArg_failing :
    (let s := failing 0 (withCore (start []) (buffer 0xFE 7))
     FailsAfter 0 s.ports ∧ s.launch.outPresent = true ∧ 8 * (0 + 1) ≤ s.core.wbCnt.toNat + (1 : Byte).toNat) ∧
    (let s := failing 3 (start [])
     FailsAfter 3 s.ports ∧ s.launch.outPresent = true ∧ 8 * (3 + 1) ≤ s.core.wbCnt.toNat + (32 : Byte).toNat) :=
  ⟨⟨failsAfter_failing _ _, by decide +kernel⟩, failsAfter_failing _ _, by decide +kernel⟩

theorem witness_WrMagicWritesMarker :
    let s := start []
    (s.launch.outPresent = true ∧ s.core.wbCnt = 0 ∧ OksAhead 4 s.ports) ∧
    FailsAfter 0 (failing 0 s).ports ∧ FailsAfter 3 (failing 3 s).ports ∧
    (withCore s (buffer 0x80 1)).core.wbCnt ≠ 0 :=
  ⟨by decide +kernel, failsAfter_failing _ _, failsAfter_failing _ _, by decide +kernel⟩

theorem witness_FlushPartialPads :
    (let s := withCore (start []) (buffer 0x80 1)
     s.launch.outPresent = true ∧ s.core.wbCnt ≠ 0 ∧ WriterOk s.core ∧ OksAhead 1 s.ports) ∧
    ((start []).launch.outPresent = true ∧ (start []).core.wbCnt = 0) ∧
    (let s := failing 0 (withCore (start []) (buffer 0xFE 7))
     FailsAfter 0 s.ports ∧ s.launch.outPresent = true ∧ s.core.wbCnt ≠ 0) :=
  ⟨by decide +kernel, by decide +kernel, failsAfter_failing _ _, by decide +kernel⟩

theorem witness_FinishWritesFooter :
    (let s := start []; s.launch.outPresent = true ∧ WriterOk s.core ∧ OksAhead 3 s.ports) ∧
    (let s := withCore (start []) (buffer 0xFE 7)
     s.launch.outPresent = true ∧ WriterOk s.core ∧ OksAhead 3 s.ports) ∧
    (let s := failing 1 (start [])
     FailsAfter 1 s.ports ∧ 1 < (if s.core.wbCnt = 0 then 2 else 3)) ∧
    (let s := failing 2 (withCore (start []) (buffer 0xFE 7))
     FailsAfter 2 s.ports ∧ 2 < (if s.core.wbCnt = 0 then 2 else 3)) :=
  ⟨by decide +kernel, by decide +kernel, ⟨failsAfter_failing _ _, by decide +kernel⟩, failsAfter_failing _ _,
    by decide +kernel⟩

theorem witness_SerTreeWritesDescription :
    let s := withCore (start []) { treeAB with wbAcc := 0xFE, wbCnt := 7 }
    s.launch.outPresent = true ∧ s.core.treeV = true ∧ s.core.tree = some treeOfAB ∧ WriterOk s.core ∧
      OksAhead ((treeOfAB.bits.length + 7) / 8) s.ports := by decide +kernel

/-- The 19 bits fill the third byte to its last bit. -/
theorem witness_SerTreeWritesDescription_failing :
    let s := failing 2 (withCore (start []) { treeAB with wbAcc := 0xA8, wbCnt := 5 })
    FailsAfter 2 s.ports ∧ s.launch.outPresent = true ∧ s.core.treeV = true ∧ s.core.tree = some treeOfAB ∧
      8 * (2 + 1) ≤ s.core.wbCnt.toNat + treeOfAB.bits.length :=
  ⟨failsAfter_failing _ _, by decide +kernel⟩

/-- The one bit of the code fills the byte. -/
theorem witness_EncSymPushesCode_EncStreamEncodesInput_failing :
    let s := failing 0 (withCore (start [0x41, 0x43]) { treeAB with wbAcc := 0xFE, wbCnt := 7 })
    FailsAfter 0 s.ports ∧ s.launch.inPresent = true ∧ s.launch.outPresent = true ∧ s.core.codesV = true ∧
      8 * (0 + 1) ≤ s.core.wbCnt.toNat + (s.core.codeLenOf 0x41).toNat ∧
      s.ports.inData = [0x41] ++ [0x43] ∧ (∀ c ∈ [(0x41 : Byte)], s.core.codeLenOf c ≠ 0) ∧
      8 * (0 + 1) ≤ s.core.wbCnt.toNat + ([(0x41 : Byte)].flatMap s.core.codeOf).length :=
  ⟨failsAfter_failing _ _, by decide +kernel⟩

theorem witness_EncSymPushesCode :
    let s := withCore (start []) treeAB
    s.launch.outPresent = true ∧ s.core.codesV = true ∧ s.core.codeLenOf 0x41 ≠ 0 ∧ WriterOk s.core ∧
      OksAhead 32 s.ports ∧ s.core.codeLenOf 0x43 = 0 := by decide +kernel

theorem witness_EncStreamEncodesInput :
    (let s := withCore (start [0x41, 0x42, 0x41]) treeAB
     s.launch.inPresent = true ∧ s.launch.outPresent = true ∧ s.core.codesV = true ∧
     (∀ b ∈ s.ports.inData, s.core.codeLenOf b ≠ 0) ∧ WriterOk s.core ∧
     OksAhead (((s.ports.inData.flatMap s.core.codeOf).length + 7) / 8) s.ports) ∧
    (let s := withCore (start [0x41, 0x43, 0x41]) treeAB
     s.launch.inPresent = true ∧ s.launch.outPresent = true ∧ s.core.codesV = true ∧
     s.ports.inData = [0x41] ++ 0x43 :: [0x41] ∧ (∀ c ∈ [(0x41 : Byte)], s.core.codeLenOf c ≠ 0) ∧
     s.core.codeLenOf 0x43 = 0 ∧ OksAhead ((([(0x41 : Byte)].flatMap s.core.codeOf).length + 7) / 8) s.ports) := by
  decide +kernel

theorem witness_FooterCounts : ∀ k : Fin 8, (0x03 : Byte) ≠ BitVec.ofNat 8 (2 ^ k.val) := by decide

theorem witness_NextBitGivesValidBits :
    (let w := (reading Core.zero (fileAB.drop 4)).work
     w.core.hdrOk = true ∧ ReaderOk w.core ∧ GoodFooter (streamFrom w) ∧
       bitsLeft w = false :: (bitsLeft w).tail ∧ (bitsLeft w).length = 21) ∧
    (let w := (withCore (start []) (atLast Core.zero 0x48 0x08 5)).work
     w.core.hdrOk = true ∧ ReaderOk w.core ∧ bitsLeft w = []) ∧
    (let w := (withCore (start []) { opened Core.zero 0x50 0x48 0x03 with rbPos := 7 }).work
     w.core.hdrOk = true ∧ w.core.rbLa1V = true ∧ w.core.rbPos = 7 ∧ w.ports.inData.length ≤ w.ports.inPos ∧
       footerCount w.core.rbLa1 = none) := by decide +kernel

theorem witness_RdMagicOpensReader :
    (let s := start fileAB
     s.launch.inPresent = true ∧ s.ports.inData.drop s.ports.inPos = s.launch.magic.toList ++ [0x50, 0x68, 0x48, 0x08] ∧
       3 ≤ [0x50, 0x68, 0x48, (0x08 : Byte)].length) ∧
    (let s := start [0x48, 0x55, 0x46, 0x01, 0xA0, 0x80]
     s.ports.inData.drop s.ports.inPos = s.launch.magic.toList ++ [0xA0, 0x80] ∧
       [0xA0, (0x80 : Byte)].length = 2 ∧ GoodFooter [0xA0, 0x80]) := by decide +kernel

theorem witness_BadHeaderRefused :
    (let s := start [0x48, 0x55, 0x46]
     s.launch.inPresent = true ∧ s.launch.outPresent = true ∧ s.ports.inPos ≤ s.ports.inData.length ∧
       (s.ports.inData.drop s.ports.inPos).length < 4) ∧
    (let s := start [0x48, 0x55, 0x47, 0x01]
     4 ≤ (s.ports.inData.drop s.ports.inPos).length ∧
       (s.ports.inData.drop s.ports.inPos).take 4 ≠ s.launch.magic.toList) ∧
    (let s := start [0x48, 0x55, 0x46, 0x01, 0x50]
     s.ports.inData.drop s.ports.inPos = s.launch.magic.toList ++ [0x50] ∧ [(0x50 : Byte)].length < 2) ∧
    (let s := start [0x48, 0x55, 0x46, 0x01, 0x50, 0x03]
     s.ports.inData.drop s.ports.inPos = s.launch.magic.toList ++ [0x50, 0x03] ∧ ¬ GoodFooter [0x50, 0x03]) := by
  decide +kernel

theorem witness_PullBitsTakesValidBits :
    (let s := reading Core.zero [0xDE, 0xAD, 0xBE, 0xEF, 0x01]
     s.launch.inPresent = true ∧ s.core.hdrOk = true ∧ ReaderOk s.core ∧ GoodFooter (streamFrom s.work) ∧
       (32 : Byte).toNat ≤ (bitsLeft s.work).length ∧ 1 ≤ (32 : Byte).toNat ∧ (32 : Byte).toNat ≤ 32) ∧
    (let s := reading Core.zero (fileAB.drop 4)
     s.launch.inPresent = true ∧ s.core.hdrOk = true ∧ ReaderOk s.core ∧ GoodFooter (streamFrom s.work) ∧
       (bitsLeft s.work).length < (22 : Byte).toNat) ∧
    ((0 : Byte).toNat = 0 ∧ 32 < (33 : Byte).toNat) := by decide +kernel

theorem witness_DeserTreeReadsDescription :
    (let s := reading Core.zero (fileAB.drop 4)
     s.launch.inPresent = true ∧ s.core.hdrOk = true ∧ ReaderOk s.core ∧ GoodFooter (streamFrom s.work) ∧
       treeOfAB.internals ≤ 255 ∧ bitsLeft s.work = treeOfAB.bits ++ [false, true]) ∧
    (let s := reading Core.zero (List.replicate 32 0 ++ [0, 0x80])
     s.launch.inPresent = true ∧ s.core.hdrOk = true ∧ ReaderOk s.core ∧ GoodFooter (streamFrom s.work) ∧
       bitsLeft s.work = List.replicate 256 false ++ [false]) := by decide +kernel

/-- The deepest tree the description admits. -/
theorem witness_DeserTreeReadsDescription_deepest :
    let s := reading Core.zero chainStream
    s.core.hdrOk = true ∧ ReaderOk s.core ∧ GoodFooter (streamFrom s.work) ∧ (chain 255).internals ≤ 255 ∧
      bitsLeft s.work = (chain 255).bits ++ [] := by decide +kernel

/-- A tree is read back from the front of its description: no description begins with another's. -/
theorem bits_append_inj (t u : Tree) (r v : List Bool) (h : t.bits ++ r = u.bits ++ v) : t = u ∧ r = v := by
  induction t generalizing u r v with
  | leaf b =>
    cases u with
    | leaf c =>
      simp only [Tree.bits, byteBits, List.cons_append, List.nil_append, List.cons.injEq, true_and] at h
      refine ⟨congrArg Tree.leaf (BitVec.eq_of_getLsbD_eq fun i hi => ?_), h.2.2.2.2.2.2.2.2⟩
      have : i = 0 ∨ i = 1 ∨ i = 2 ∨ i = 3 ∨ i = 4 ∨ i = 5 ∨ i = 6 ∨ i = 7 := by omega
      rcases this with rfl | rfl | rfl | rfl | rfl | rfl | rfl | rfl <;> simp only [h]
    | node z o => simp [Tree.bits] at h
  | node z o hz ho =>
    cases u with
    | leaf c => simp [Tree.bits] at h
    | node y n =>
      simp only [Tree.bits, List.cons_append, List.append_assoc, List.cons.injEq, true_and] at h
      obtain ⟨rfl, h'⟩ := hz y _ _ h
      obtain ⟨rfl, hr⟩ := ho n _ _ h'
      exact ⟨rfl, hr⟩

theorem nine_le_bits (t : Tree) : 9 ≤ t.bits.length := by
  induction t with
  | leaf b => simp [Tree.bits, byteBits]
  | node z o hz _ => simp [Tree.bits]; omega

/-- The valid bits end inside the tree: one bit is left. -/
theorem witness_DeserTreeReadsDescription_short :
    let s := withCore (start []) (atLast Core.zero 0x80 0x80 0)
    s.launch.inPresent = true ∧ s.core.hdrOk = true ∧ ReaderOk s.core ∧ GoodFooter (streamFrom s.work) ∧
      ∀ (tr : Tree) (rest : List Bool), tr.internals ≤ 255 → bitsLeft s.work ≠ tr.bits ++ rest := by
  refine ⟨rfl, rfl, by decide +kernel, by decide +kernel, fun tr rest _ h => ?_⟩
  have hl : (bitsLeft (withCore (start []) (atLast Core.zero 0x80 0x80 0)).work).length = 1 := by decide +kernel
  have := nine_le_bits tr
  rw [h, List.length_append] at hl
  omega

/-- A whole tree, of one internal node too many. -/
theorem witness_DeserTreeReadsDescription_large :
    let s := reading Core.zero longChainStream
    s.launch.inPresent = true ∧ s.core.hdrOk = true ∧ ReaderOk s.core ∧ GoodFooter (streamFrom s.work) ∧
      ∀ (tr : Tree) (rest : List Bool), tr.internals ≤ 255 → bitsLeft s.work ≠ tr.bits ++ rest := by
  refine ⟨rfl, rfl, by decide +kernel, by decide +kernel, fun tr rest hi h => ?_⟩
  have hb : bitsLeft (reading Core.zero longChainStream).work = (chain 256).bits ++ [] := by decide +kernel
  have hc : (chain 256).internals = 256 := by decide +kernel
  obtain ⟨rfl, -⟩ := bits_append_inj _ _ _ _ (hb.symm.trans h)
  omega

theorem witness_DecSymTakesOneCode :
    (let s := withCore (start []) (atLast treeAB 0x48 0x08 5)
     s.launch.inPresent = true ∧ s.core.hdrOk = true ∧ s.core.treeV = true ∧ s.core.tree = some treeOfAB ∧
       ReaderOk s.core ∧ GoodFooter (streamFrom s.work) ∧ bitsLeft s.work = []) ∧
    (let s := withCore (start []) (atLast treeAB 0x48 0x08 3)
     s.launch.inPresent = true ∧ s.core.hdrOk = true ∧ s.core.treeV = true ∧ s.core.tree = some treeOfAB ∧
       ReaderOk s.core ∧ GoodFooter (streamFrom s.work) ∧
       treeOfAB.decode (bitsLeft s.work) = some (0x41, [true])) ∧
    (let s := withCore (start []) (atLast treeA 0x80 0x80 0)
     s.launch.inPresent = true ∧ s.core.hdrOk = true ∧ s.core.treeV = true ∧ s.core.tree = some (.leaf 0x41) ∧
       ReaderOk s.core ∧ GoodFooter (streamFrom s.work) ∧ bitsLeft s.work ≠ [] ∧
       (Tree.leaf 0x41).decode (bitsLeft s.work) = none) := by decide +kernel

theorem witness_DecStreamWritesDecoded :
    (let s := withCore (start []) (atLast treeAB 0x48 0x08 3)
     let ps : List (Byte × List Bool) := [(0x41, [false]), (0x42, [true])]
     s.launch.inPresent = true ∧ s.launch.outPresent = true ∧ s.core.hdrOk = true ∧ s.core.treeV = true ∧
       s.core.tree = some treeOfAB ∧ ReaderOk s.core ∧ GoodFooter (streamFrom s.work) ∧
       (∀ p ∈ ps, p ∈ treeOfAB.codes) ∧ OksAhead (ps.length + 1) s.ports ∧
       bitsLeft s.work = ps.flatMap Prod.snd) ∧
    (let s := withCore (start []) (atLast treeA 0x40 0x40 0)
     let ps : List (Byte × List Bool) := [(0x41, [false])]
     s.core.tree = some (.leaf 0x41) ∧ ReaderOk s.core ∧ GoodFooter (streamFrom s.work) ∧
       (∀ p ∈ ps, p ∈ (Tree.leaf 0x41).codes) ∧ OksAhead ps.length s.ports ∧ [true] ≠ [] ∧
       (Tree.leaf 0x41).decode [true] = none ∧ bitsLeft s.work = ps.flatMap Prod.snd ++ [true]) := by decide +kernel

/-- The first byte fails; the flush after the last does. -/
theorem witness_DecStreamWritesDecoded_failing :
    let s := withCore (start []) (atLast treeAB 0x48 0x08 3)
    let ps : List (Byte × List Bool) := [(0x41, [false]), (0x42, [true])]
    s.core.tree = some treeOfAB ∧ (∀ p ∈ ps, p ∈ treeOfAB.codes) ∧ bitsLeft s.work = ps.flatMap Prod.snd ++ [] ∧
      (FailsAfter 0 (failing 0 s).ports ∧ 0 < ps.length) ∧ FailsAfter 2 (failing 2 s).ports ∧ 2 = ps.length :=
  ⟨by decide +kernel, by decide +kernel, by decide +kernel, ⟨failsAfter_failing _ _, by decide⟩,
    failsAfter_failing _ _, rfl⟩

/-- The first byte of the file fails; the flush after the last does. -/
theorem witness_CompressWritesFile_failing :
    let s := start [0x41, 0x42]
    (∀ b : Byte, s.ports.inData.count b < 2 ^ 32) ∧ fileOf s.launch.magic s.ports.inData = some fileAB ∧
      (FailsAfter 0 (failing 0 s).ports ∧ 0 ≤ fileAB.length) ∧ FailsAfter 8 (failing 8 s).ports ∧ 8 ≤ fileAB.length :=
  ⟨by decide +kernel, by decide +kernel, ⟨failsAfter_failing _ _, by decide⟩, failsAfter_failing _ _, by decide⟩

theorem input_of_one_symbol (n : Nat) :
    (start (List.replicate n 0x41 ++ 0x41 :: [])).ports.inData = List.replicate n 0x41 ++ 0x41 :: [] ∧
      (∀ c : Byte, (List.replicate n (0x41 : Byte)).count c < n + 1) ∧
      (List.replicate n (0x41 : Byte)).count 0x41 = n :=
  ⟨rfl, fun c => Nat.lt_succ_of_le (by simpa using List.count_le_length (a := c) (l := List.replicate n (0x41 : Byte))),
    List.count_replicate_self⟩

/-- An input of 2^32 bytes, all of them A. -/
theorem witness_CompressWritesFile_overflow :
    let n := 2 ^ 32 - 1
    (start (List.replicate n 0x41 ++ 0x41 :: [])).ports.inData = List.replicate n 0x41 ++ 0x41 :: [] ∧
      (∀ c : Byte, (List.replicate n (0x41 : Byte)).count c < 2 ^ 32) ∧
      (List.replicate n (0x41 : Byte)).count 0x41 = n := by
  intro n
  have h : 2 ^ 32 = n + 1 := by decide
  rw [h]
  exact input_of_one_symbol n

theorem witness_CompressWritesFile :
    (let s := start [0x41, 0x42]
     s.launch.inPresent = true ∧ s.launch.outPresent = true ∧ s.core.wbCnt = 0 ∧ WriterOk s.core ∧
       (∀ b : Byte, s.ports.inData.count b < 2 ^ 32) ∧ fileOf s.launch.magic s.ports.inData = some fileAB ∧
       OksAhead (fileAB.length + 1) s.ports) ∧
    (start []).ports.inData = [] ∧ [(0x41 : Byte)] ≠ [] := by decide +kernel

theorem witness_DecompressDecodesStream :
    let s := start fileAB
    let d : List Byte := [0x50, 0x68, 0x48, 0x08]
    let ps : List (Byte × List Bool) := [(0x41, [false]), (0x42, [true])]
    s.launch.inPresent = true ∧ s.launch.outPresent = true ∧
      s.ports.inData.drop s.ports.inPos = s.launch.magic.toList ++ d ∧ 2 ≤ d.length ∧ GoodFooter d ∧
      treeOfAB.internals ≤ 255 ∧ (∀ p ∈ ps, p ∈ treeOfAB.codes) ∧
      validBits d = treeOfAB.bits ++ ps.flatMap Prod.snd ∧ OksAhead (ps.length + 1) s.ports := by decide +kernel

/-- The first decoded byte fails; the flush after the last does. -/
theorem witness_DecompressDecodesStream_failing :
    let s := start fileAB
    let ps : List (Byte × List Bool) := [(0x41, [false]), (0x42, [true])]
    validBits [0x50, 0x68, 0x48, 0x08] = treeOfAB.bits ++ ps.flatMap Prod.snd ++ [] ∧
      (FailsAfter 0 (failing 0 s).ports ∧ 0 < ps.length) ∧ FailsAfter 2 (failing 2 s).ports ∧ 2 = ps.length :=
  ⟨by decide +kernel, ⟨failsAfter_failing _ _, by decide⟩, failsAfter_failing _ _, rfl⟩

theorem witness_RoundTripRestoresInput :
    let s := start [0x41, 0x42]
    let r := start fileAB
    s.launch.inPresent = true ∧ s.launch.outPresent = true ∧ s.core.wbCnt = 0 ∧ WriterOk s.core ∧
      s.ports.inData ≠ [] ∧ (∀ b : Byte, s.ports.inData.count b < 2 ^ 32) ∧ s.ports.outData = [] ∧
      fileOf s.launch.magic s.ports.inData = some fileAB ∧ OksAhead (fileAB.length + 1) s.ports ∧
      r.launch = s.launch ∧ r.ports.inData = fileAB ∧ r.ports.inPos = 0 ∧ r.ports.outData = [] ∧
      OksAhead (s.ports.inData.length + 1) r.ports := by decide +kernel

/-- Two machines on the same input, the second with other counts and another tree. -/
theorem witness_CompressIsDeterministic :
    let s := start [0x41, 0x42]
    let r := withCore (start [0x41, 0x42]) treeA
    s.launch = r.launch ∧ s.ports.inData = r.ports.inData ∧ WriterOk s.core ∧ WriterOk r.core ∧ s.err = false ∧
      r.err = false ∧ (after .compress s).err = false ∧ (after .compress r).err = false ∧
      (after .compress s).ports.outData = fileAB := by decide +kernel

end Sys2Proof.Tests
end

/-! ## The frame of every command (R40) -/

namespace Sys2Proof.Machine

/-! ### What a success says -/

theorem Res.Post.of_ok {α : Type} {r : Res α} {P : α → Work → Prop} {E : ErrKind → Work → Prop} {F : Fault → Prop}
    {a : α} {w : Work} (h : r.Post P E F) (hr : r = .ok a w) : P a w := by
  subst hr; exact h

/-- A checked command that ends without error is its body's success, completed. -/
theorem checked_ok {needsIn needsOut prereq : Bool} {body : Work → Res Unit} {s t : State}
    (h : checked needsIn needsOut prereq body s = .next t) (he : t.err = false) :
    ∃ v, body s.work = .ok () v ∧ t = complete (s.setWork v) := by
  rcases checked_cases needsIn needsOut prereq body s with ⟨-, k⟩ | ⟨-, -, -, k⟩ | ⟨-, -, -, k⟩ <;> rw [k] at h
  · cases h; simp at he
  · cases h; simp at he
  · rcases settle_eq_next.mp h with ⟨v, hv, ht⟩ | ⟨e, v, -, rfl⟩
    · exact ⟨v, hv, ht⟩
    · simp at he

/-- The frame of a checked command is the frame of its body. -/
theorem checked_frame {needsIn needsOut prereq : Bool} {body : Work → Res Unit} {s t : State} {i : Instr}
    (h : checked needsIn needsOut prereq body s = .next t) (he : t.err = false)
    (hb : ∀ v, body s.work = .ok () v → Frame i s.core v.core) :
    Frame i s.core t.core ∧ (i ≠ .softReset → Completed s t) := by
  obtain ⟨v, hv, rfl⟩ := checked_ok h he
  exact ⟨hb v hv, fun _ => rfl⟩

theorem checkedCount_frame {needsIn needsOut prereq : Bool} {body : Work → Res Unit} {s t : State} {i : Instr}
    {n : Byte} (h : checkedCount n (checked needsIn needsOut prereq body) s = .next t) (he : t.err = false)
    (hb : ∀ v, body s.work = .ok () v → Frame i s.core v.core) :
    Frame i s.core t.core ∧ (i ≠ .softReset → Completed s t) := by
  cases hn : countLegal n with
  | true => exact checked_frame (by simpa [hn] using h) he hb
  | false => rw [checkedCount_illegal hn] at h; cases h; simp at he

/-! ### Loops and sends -/

theorem emit_core {b : Byte} {w v : Work} (h : emit b w = .ok () v) : v.core = w.core := by
  rcases emit_cases b w with ⟨p, k, -⟩ | ⟨p, -, k, -⟩ <;> rw [k] at h <;> cases h
  rfl

theorem flushOut_core {w v : Work} (h : flushOut w = .ok () v) : v.core = w.core := by
  rcases flush_cases w.ports with ⟨q, k, -⟩ | ⟨q, -, k, -⟩ <;> simp only [flushOut, k] at h <;> cases h
  rfl

/-- A loop over the input keeps what every pass keeps of the core state (R12). -/
theorem forBytes_core {body : Byte → Work → Res Unit} {R : Core → Core → Prop} (refl : ∀ c, R c c)
    (trans : ∀ {c d e}, R c d → R d e → R c e) (hb : ∀ {b} {w v : Work}, body b w = .ok () v → R w.core v.core)
    {k : Nat} {w v : Work} (h : forBytes body k w = .ok () v) : R w.core v.core := by
  induction k generalizing w with
  | zero => cases h
  | succ k ih =>
    rcases readByte_cases w.ports with ⟨hl, -⟩ | ⟨hl, -⟩
    · rw [forBytes_byte (List.getElem?_eq_getElem hl), Res.bind_eq_ok] at h
      obtain ⟨⟨⟩, u, hu, h⟩ := h
      have hr := hb hu
      exact trans hr (ih h)
    · rw [forBytes_eos hl] at h
      cases h
      exact refl _

/-! ### The writer's buffer -/

/-- With no bit buffered the accumulator is 0: what WB holds once a bit has gone through it (R97, R98). -/
def BufferClean (c : Core) : Prop := c.wbCnt = 0 → c.wbAcc = 0

/-- A bit leaves the buffer with bits in it, or empty and cleared, whatever was in it before (R97). -/
theorem pushBit_bufferClean {b : Bool} {w v : Work} (h : pushBit b w = .ok () v) : BufferClean v.core := by
  by_cases h7 : w.core.wbCnt = 7
  · simp only [pushBit, if_pos h7] at h
    obtain ⟨⟨⟩, u, -, h⟩ := Res.bind_eq_ok.mp h
    cases h
    exact fun _ => rfl
  · rw [pushBit_short h7] at h
    cases h
    intro h0
    simp only [Work.setCore_core, Core.setWb_wbCnt] at h0
    exact absurd (show w.core.wbCnt = 7 by bv_omega) h7

theorem pushBits_bufferClean {bs : List Bool} {w v : Work} (h : pushBits bs w = .ok () v)
    (hw : bs = [] → BufferClean w.core) : BufferClean v.core := by
  induction bs generalizing w with
  | nil => cases h; exact hw rfl
  | cons b bs ih =>
    obtain ⟨⟨⟩, u, hu, h⟩ := Res.bind_eq_ok.mp h
    exact ih h fun _ => pushBit_bufferClean hu

/-- The serializer sends at least one bit (R116). -/
theorem ser_bufferClean {d : Nat} {i : Slot} {w v : Work} (h : ser d i w = .ok () v) : BufferClean v.core := by
  induction d generalizing i w with
  | zero => cases h
  | succ d ih =>
    unfold ser at h
    split at h
    · cases h
    · simp only at h
      split at h
      · exact pushBits_bufferClean h fun k => by cases k
      · obtain ⟨⟨⟩, u, -, h⟩ := Res.bind_eq_ok.mp h
        obtain ⟨⟨⟩, u', -, h⟩ := Res.bind_eq_ok.mp h
        exact ih h

theorem encodeSym_bufferClean {b : Byte} {w v : Work} (h : encodeSym b w = .ok () v) (hw : BufferClean w.core) :
    BufferClean v.core := by
  unfold encodeSym at h
  split at h
  · cases h
  · exact pushBits_bufferClean h fun _ => hw

theorem encStream_bufferClean {w v : Work} (h : encStream w = .ok () v) (hw : BufferClean w.core) :
    BufferClean v.core :=
  forBytes_core (R := fun c d => BufferClean c → BufferClean d) (fun _ => id) (fun f g x => g (f x))
    (fun k => encodeSym_bufferClean k) h hw

theorem flushPartial_empties {w v : Work} (h : flushPartial w = .ok () v) (hw : BufferClean w.core) :
    v.core.wbAcc = 0 ∧ v.core.wbCnt = 0 := by
  unfold flushPartial at h
  split at h
  · rename_i h0
    cases h
    exact ⟨hw h0, h0⟩
  · obtain ⟨⟨⟩, u, -, h⟩ := Res.bind_eq_ok.mp h
    cases h
    exact ⟨rfl, rfl⟩

/-- `FINISH` leaves the writer empty (R126). -/
theorem finish_empties {w v : Work} (h : finish w = .ok () v) (hw : BufferClean w.core) :
    v.core.wbAcc = 0 ∧ v.core.wbCnt = 0 := by
  obtain ⟨⟨⟩, u, hu, h⟩ := Res.bind_eq_ok.mp h
  obtain ⟨⟨⟩, x, hx, h⟩ := Res.bind_eq_ok.mp h
  rw [flushOut_core h, emit_core hx]
  exact flushPartial_empties hu hw

/-! ### The frames of the bodies (R40) -/

theorem freqCount_frame {w v : Work} (h : freqCount w = .ok () v) : Frame .freqCount w.core v.core := by
  have hc : v.core = { (closeReader w).core with freq := v.core.freq } := by
    refine forBytes_core (R := fun c d : Core => d = { c with freq := d.freq }) (fun _ => rfl) ?_ ?_ h
    · intro c d e hd he; rw [he, hd]
    · intro b w v hb
      rcases countByte_cases b w with ⟨-, k⟩ | ⟨-, k⟩ <;> rw [k] at hb <;> cases hb
      rfl
  rw [hc]
  rfl

/-- Only the arena's slots differ. -/
def NodesOnly (c d : Core) : Prop := d = { c with node := d.node }

theorem NodesOnly.trans {c d e : Core} (h : NodesOnly c d) (k : NodesOnly d e) : NodesOnly c e := by
  unfold NodesOnly at *
  rw [k, h]

theorem placeLeaves_nodesOnly (bs : List Byte) (c : Core) : NodesOnly c (bs.foldl placeLeaf c) := by
  induction bs generalizing c with
  | nil => rfl
  | cons b bs ih => exact NodesOnly.trans (d := placeLeaf c b) rfl (ih _)

theorem mergeInto_nodesOnly (c : Core) (p a b : Slot) : NodesOnly c (mergeInto c p a b) := rfl

theorem mergeAll_nodesOnly (m k : Nat) (work : List Slot) (c : Core) : NodesOnly c (mergeAll m k work c).1 := by
  fun_induction mergeAll m k work c with
  | case1 => rfl
  | case2 => rfl
  | case3 => rfl
  | case4 m k x y rest c work a left b p ih => exact (mergeInto_nodesOnly c p a b).trans ih

theorem buildTree_frame {w v : Work} (h : buildTree w = .ok () v) : Frame .buildTree w.core v.core := by
  unfold buildTree at h
  simp only at h
  split at h
  · cases h
  · cases h
    have hm := (placeLeaves_nodesOnly (present w.core) _).trans
      (mergeAll_nodesOnly (present w.core).length 0 ((present w.core).map leafSlot)
        ((present w.core).foldl placeLeaf { w.core with treeV := false, codesV := false }.clearNodes))
    unfold NodesOnly at hm
    show Core.mk .. = _
    rw [hm]
    rfl

theorem walk_frame {i : Slot} {w v : Work} (h : walk i w = .ok () v) :
    v.core = { w.core with codeLen := v.core.codeLen, codeBits := v.core.codeBits } := by
  unfold walk at h
  split at h
  · cases h; rfl
  · cases h

theorem walkAll_frame {is : List Slot} {w v : Work} (h : walkAll is w = .ok () v) :
    v.core = { w.core with codeLen := v.core.codeLen, codeBits := v.core.codeBits } := by
  induction is generalizing w with
  | nil => cases h; rfl
  | cons i is ih =>
    obtain ⟨⟨⟩, u, hu, h⟩ := Res.bind_eq_ok.mp h
    rw [ih h, walk_frame hu]

theorem genCodes_frame {w v : Work} (h : genCodes w = .ok () v) : Frame .genCodes w.core v.core := by
  unfold genCodes at h
  simp only at h
  split at h
  · cases h
  · split at h
    · cases h; rfl
    · obtain ⟨⟨⟩, u, hu, h⟩ := Res.bind_eq_ok.mp h
      cases h
      have hc := walkAll_frame hu
      show Core.mk .. = _
      rw [hc]
      rfl

theorem encStream_frame {w v : Work} (h : encStream w = .ok () v) : Frame .encStream w.core v.core := by
  have hc : v.core = (closeReader w).core.setWb v.core.wbAcc v.core.wbCnt := by
    refine forBytes_core (w := rewind (closeReader w)) (R := fun c d => d = c.setWb d.wbAcc d.wbCnt)
      (fun _ => rfl) ?_ ?_ h
    · intro c d e hd he; rw [he, hd]; rfl
    · exact fun k => ((encodeSym_post _ _).of_ok k).2.core
  rw [hc]
  rfl

theorem rdMagic_frame {magic : Vector Byte 4} {w v : Work} (h : rdMagic magic w = .ok () v) :
    Frame .rdMagic w.core v.core := by
  obtain ⟨got, u, hu, h⟩ := Res.bind_eq_ok.mp h
  split at h
  · obtain ⟨⟨⟩, x, hx, h⟩ := Res.bind_eq_ok.mp h
    cases h
    have hc := (((readHeader_post _ _).of_ok hu).2.trans ((prime_post u).of_ok hx)).core
    show Core.mk .. = _
    rw [hc]
    rfl
  · cases h

theorem pullBits_frame {n : Byte} {w v : Work} (h : pullBits n w = .ok () v) : Frame (.pullBits n) w.core v.core := by
  obtain ⟨x, u, hu, h⟩ := Res.bind_eq_ok.mp h
  cases h
  have hc := ((readBits_post _ _ _).of_ok hu).core
  show Core.mk .. = _
  rw [hc]
  rfl

theorem decSym_frame {w v : Work} (h : decSym w = .ok () v) : Frame .decSym w.core v.core := by
  unfold decSym at h
  split at h
  · cases h; rfl
  · obtain ⟨x, u, hu, h⟩ := Res.bind_eq_ok.mp h
    cases h
    have hc := ((decodeOne_post _).of_ok hu).core
    show Core.mk .. = _
    rw [hc]
    rfl

theorem decodeAll_frame {k : Nat} {w v : Work} (h : decodeAll k w = .ok () v) : Frame .decStream w.core v.core := by
  induction k generalizing w with
  | zero => cases h
  | succ k ih =>
    unfold decodeAll at h
    split at h
    · cases h; rfl
    · obtain ⟨b, u, hu, h⟩ := Res.bind_eq_ok.mp h
      obtain ⟨⟨⟩, x, hx, h⟩ := Res.bind_eq_ok.mp h
      rw [ih h, emit_core hx, ((decodeOne_post _).of_ok hu).core]

theorem decStream_frame {w v : Work} (h : decStream w = .ok () v) : Frame .decStream w.core v.core := by
  obtain ⟨⟨⟩, u, hu, h⟩ := Res.bind_eq_ok.mp h
  rw [flushOut_core h]
  exact decodeAll_frame hu

/-- The deserializer's moves: the reader and the arena's slots, nothing else (R118). -/
structure DeserMoves (w v : Work) : Prop where
  core : v.core = { w.core with
    rbCur := v.core.rbCur, rbPos := v.core.rbPos, rbLa0 := v.core.rbLa0, rbLa1 := v.core.rbLa1,
    rbLa1V := v.core.rbLa1V, node := v.core.node }
  ports : InputOnly w.ports v.ports

theorem DeserMoves.trans {u v w : Work} (h : DeserMoves u v) (k : DeserMoves v w) : DeserMoves u w := by
  refine ⟨?_, ?_⟩
  · rw [k.core, h.core]
  · rw [k.ports, h.ports]

theorem ReaderMoves.deserMoves {w v : Work} (h : ReaderMoves w v) : DeserMoves w v := by
  refine ⟨?_, h.ports⟩
  rw [h.core]

theorem putNode_deserMoves (i : Slot) (n : Node) (w : Work) : DeserMoves w (putNode i n w) := ⟨rfl, rfl⟩

theorem deser_moves {d : Nat} {parent i : Slot} {side : Bool} {t t' : Tally} {w v : Work}
    (h : deser d parent side t w = .ok (i, t') v) : DeserMoves w v := by
  induction d generalizing parent side t w i t' v with
  | zero => cases h
  | succ d ih =>
    unfold deser at h
    obtain ⟨b, u, hu, h⟩ := Res.bind_eq_ok.mp h
    have mu := ((nextBit_post w).of_ok hu).deserMoves
    simp only at h
    split at h
    · obtain ⟨x, u', hx, h⟩ := Res.bind_eq_ok.mp h
      cases h
      exact (mu.trans ((readBits_post _ _ _).of_ok hx).deserMoves).trans (putNode_deserMoves _ _ _)
    · split at h
      · cases h
      · obtain ⟨⟨j, tj⟩, x, hx, h⟩ := Res.bind_eq_ok.mp h
        obtain ⟨⟨k, tk⟩, y, hy, h⟩ := Res.bind_eq_ok.mp h
        cases h
        exact (mu.trans ((putNode_deserMoves _ _ _).trans (ih hx))).trans
          (((putNode_deserMoves _ _ _).trans (ih hy)).trans (putNode_deserMoves _ _ _))

theorem deserTree_frame {w v : Work} (h : deserTree w = .ok () v) : Frame .deserTree w.core v.core := by
  obtain ⟨⟨i, t⟩, u, hu, h⟩ := Res.bind_eq_ok.mp h
  cases h
  have hc := (deser_moves hu).core
  show Core.mk .. = _
  rw [hc]
  rfl

/-! ### The composite commands -/

theorem compress_frame {magic : Vector Byte 4} {w v : Work} (h : compress magic w = .ok () v) :
    Frame .compress w.core v.core := by
  obtain ⟨⟨⟩, u1, h1, h⟩ := Res.bind_eq_ok.mp h
  obtain ⟨⟨⟩, u2, h2, h⟩ := Res.bind_eq_ok.mp h
  obtain ⟨⟨⟩, u3, h3, h⟩ := Res.bind_eq_ok.mp h
  obtain ⟨⟨⟩, u4, h4, h⟩ := Res.bind_eq_ok.mp h
  obtain ⟨⟨⟩, u5, h5, h⟩ := Res.bind_eq_ok.mp h
  obtain ⟨⟨⟩, u6, h6, h⟩ := Res.bind_eq_ok.mp h
  obtain ⟨⟨⟩, u7, h7, h8⟩ := Res.bind_eq_ok.mp h
  have he := finish_empties h8 (encStream_bufferClean h7 (ser_bufferClean h6))
  have h1 : u1.core = { w.core with freq := u1.core.freq } := by cases h1; rfl
  have h5 := ((emitAll_post _ _).of_ok h5).core
  have h6 := ((ser_post _ _ _).of_ok h6).core
  have h8 := ((finish_post _).of_ok h8).core
  rw [he.1, he.2] at h8
  show v.core = Core.mk ..
  rw [h8, encStream_frame h7, h6, h5, genCodes_frame h4, buildTree_frame h3, freqCount_frame h2, h1]
  rfl

theorem decompress_frame {magic : Vector Byte 4} {w v : Work} (h : decompress magic w = .ok () v) :
    Frame .decompress w.core v.core := by
  obtain ⟨⟨⟩, u1, h1, h⟩ := Res.bind_eq_ok.mp h
  obtain ⟨⟨⟩, u2, h2, h3⟩ := Res.bind_eq_ok.mp h
  show v.core = Core.mk ..
  rw [decStream_frame h3, deserTree_frame h2, rdMagic_frame h1]

/-! ### Every command -/

/-- R40: every command that ends without error keeps to its frame. -/
theorem exec_frame {i : Instr} {s t : State} (h : exec i s = .next t) (he : t.err = false) :
    Frame i s.core t.core ∧ (i ≠ .softReset → Completed s t) := by
  cases i with
  | nop => cases h; exact ⟨rfl, fun _ => rfl⟩
  | softReset => cases h; exact ⟨rfl, fun k => absurd rfl k⟩
  | freqClear =>
    change checked false false true freqClear s = _ at h
    exact checked_frame h he fun v hv => by cases hv; rfl
  | freqCount => exact checked_frame h he fun v => freqCount_frame
  | buildTree =>
    change checked false false true buildTree s = _ at h
    exact checked_frame h he fun v => buildTree_frame
  | genCodes =>
    change checked false false s.core.builtTree genCodes s = _ at h
    exact checked_frame h he fun v => genCodes_frame
  | wrMagic => exact checked_frame h he fun v hv => ((emitAll_post _ _).of_ok hv).core
  | pushBits n => exact checkedCount_frame h he fun v hv => ((pushBits_post _ _).of_ok hv).core
  | serTree => exact checked_frame h he fun v hv => ((ser_post _ _ _).of_ok hv).core
  | encSym b => exact checked_frame h he fun v hv => ((encodeSym_post _ _).of_ok hv).2.core
  | encStream => exact checked_frame h he fun v => encStream_frame
  | flushPartial => exact checked_frame h he fun v hv => ((flushPartial_post _).of_ok hv).core
  | finish => exact checked_frame h he fun v hv => ((finish_post _).of_ok hv).core
  | rdMagic => exact checked_frame h he fun v => rdMagic_frame
  | pullBits n => exact checkedCount_frame h he fun v => pullBits_frame
  | deserTree => exact checked_frame h he fun v => deserTree_frame
  | decSym => exact checked_frame h he fun v => decSym_frame
  | decStream => exact checked_frame h he fun v => decStream_frame
  | compress => exact checked_frame h he fun v => compress_frame
  | decompress => exact checked_frame h he fun v => decompress_frame

/-- Settles O21: a command that goes through is a checked body, and each body's frame is one of its own lemmas; the
frames of `COMPRESS` and `DECOMPRESS` are those of their parts in sequence. -/
theorem commandFrames : Obligations.CommandFrames := by
  unfold Obligations.CommandFrames
  intro i s t h he
  exact exec_frame h he

end Sys2Proof.Machine

/-! ## What the open reader still has to give (R104 to R109) -/

namespace Sys2Proof.Machine

/-! ### The bits the reader gives (R104, R108) -/

/-- The reader is open on a stream with a legal footer, its cursor within the valid bits. -/
structure ReaderReady (w : Work) : Prop where
  isOpen : w.core.hdrOk = true
  cursor : ReaderOk w.core
  footer : GoodFooter (streamFrom w)

theorem byteBits_length (b : Byte) : (byteBits b).length = 8 := rfl

theorem byteBits_drop (b : Byte) {p : Nat} (h : p < 8) :
    (byteBits b).drop p = b.getLsbD (7 - p) :: (byteBits b).drop (p + 1) := by
  interval_cases p <;> rfl

theorem footerCount_le {f : Byte} {n : Nat} (h : footerCount f = some n) : n ≤ 8 := by
  unfold footerCount at h
  split at h
  · cases h
  · cases h; omega

/-- The bits left of a byte that is not the final one: its own, then those of the stream after it. -/
theorem bitsLeft_more {w : Work} (hv : w.core.rbLa1V = true) (hp : w.core.rbPos.toNat ≤ 8) :
    bitsLeft w = (byteBits w.core.rbCur).drop w.core.rbPos.toNat ++
      validBits (w.core.rbLa0 :: w.core.rbLa1 :: w.ports.inData.drop w.ports.inPos) := by
  simp only [bitsLeft, streamFrom, hv, if_true, validBits]
  exact List.drop_append_of_le_length hp

/-- The bits left of the final byte: as many as its footer says. -/
theorem bitsLeft_final {w : Work} (hv : w.core.rbLa1V = false) :
    bitsLeft w =
      ((byteBits w.core.rbCur).take ((footerCount w.core.rbLa0).getD 0)).drop w.core.rbPos.toNat := by
  simp [bitsLeft, streamFrom, hv, validBits]

theorem bitsLeft_at_zero {w : Work} (h : w.core.rbPos = 0) : bitsLeft w = validBits (streamFrom w) := by
  simp [bitsLeft, h]

theorem moveCursor_pos {w : Work} (hp : w.core.rbPos.toNat < 8) :
    (w.setCore w.core.moveCursor).core.rbPos.toNat = w.core.rbPos.toNat + 1 := by
  simp only [Work.setCore_core, Core.moveCursor_rbPos]
  bv_omega

theorem goodFooter_cons (a b : Byte) (bs : List Byte) : GoodFooter (a :: b :: bs) ↔ GoodFooter (b :: bs) := by
  simp [GoodFooter]

theorem loadWindow_final {cur la0 : Byte} {w : Work} {n : Nat} (h : w.ports.inData.length ≤ w.ports.inPos)
    (hn : footerCount la0 = some n) :
    loadWindow cur la0 w =
      .ok () { core := { w.core with rbCur := cur, rbLa0 := la0, rbPos := 0, rbLa1 := 0, rbLa1V := false }
               ports := w.ports } := by
  rw [loadWindow_last h]
  simp only [checkFooter, hn]

/-- While a byte follows the window, loading it moves the stream's front by one byte (R107). -/
theorem advance_ready {w : Work} (h : w.core.hdrOk = true) (hf : GoodFooter (streamFrom w))
    (hv : w.core.rbLa1V = true) :
    ∃ v, advance w = .ok () v ∧ ReaderReady v ∧ v.core.rbPos = 0 ∧
      streamFrom v = w.core.rbLa0 :: w.core.rbLa1 :: w.ports.inData.drop w.ports.inPos := by
  simp only [streamFrom, hv, if_true, goodFooter_cons] at hf
  rcases readByte_cases w.ports with ⟨hl, -⟩ | ⟨hl, -⟩
  · rw [List.drop_eq_getElem_cons hl] at hf ⊢
    refine ⟨_, loadWindow_more (List.getElem?_eq_getElem hl), ⟨h, ?_, ?_⟩, rfl, rfl⟩
    · simp [ReaderOk, h]
    · exact (goodFooter_cons _ _ _).mpr ((goodFooter_cons _ _ _).mpr hf)
  · rw [List.drop_eq_nil_of_le hl] at hf ⊢
    obtain ⟨n, hn⟩ := Option.isSome_iff_exists.mp hf
    replace hn : footerCount w.core.rbLa1 = some n := hn
    refine ⟨_, loadWindow_final hl hn, ⟨h, ?_, (goodFooter_cons _ _ _).mpr hf⟩, rfl, rfl⟩
    simp [ReaderOk, h, hn]

/-- `next_bit` gives the first of the bits left, or raises `CORRUPT_DATA` where none is left (R108). -/
theorem nextBit_cases {w : Work} (h : ReaderReady w) :
    (bitsLeft w = [] ∧ nextBit w = .raised .corruptData w) ∨
    ∃ b v, nextBit w = .ok b v ∧ ReaderReady v ∧ bitsLeft w = b :: bitsLeft v := by
  obtain ⟨ho, hc, hf⟩ := h
  cases hv : w.core.rbLa1V with
  | false =>
    simp only [ReaderOk, ho, hv, if_true, Bool.false_eq_true, if_false, Option.any_eq_true, decide_eq_true_eq] at hc
    obtain ⟨n, hn, hp⟩ := hc
    have hn8 := footerCount_le hn
    have he : w.core.rbEnd = (w.core.rbPos.toNat == n) := by simp [Core.rbEnd, Core.rbFinal, Core.rbLim, ho, hv, hn]
    have hb := bitsLeft_final hv
    rw [hn, Option.getD_some, List.drop_take] at hb
    rcases Nat.eq_or_lt_of_le hp with hp | hp
    · exact .inl ⟨by simp [hb, hp], nextBit_end (by simp [he, hp])⟩
    · refine .inr ⟨_, _, nextBit_inside (by simp [he]; omega) (by omega) (.inr hv), ⟨ho, ?_, hf⟩, ?_⟩
      · simp only [ReaderOk, Work.setCore_core, Core.moveCursor_hdrOk, Core.moveCursor_rbLa1V, ho, hv]
        simp [hn]
        bv_omega
      · have hv' : (w.setCore w.core.moveCursor).core.rbLa1V = false := hv
        rw [hb, bitsLeft_final hv', moveCursor_pos (by omega), byteBits_drop _ (by omega),
          show n - w.core.rbPos.toNat = (n - (w.core.rbPos.toNat + 1)) + 1 by omega]
        simp [hn, List.drop_take]
  | true =>
    simp only [ReaderOk, ho, hv, if_true] at hc
    have he : w.core.rbEnd = false := by simp [Core.rbEnd, Core.rbFinal, hv]
    have hb := bitsLeft_more hv (Nat.le_of_lt hc)
    rw [byteBits_drop _ hc] at hb
    right
    by_cases h7 : w.core.rbPos = 7
    · obtain ⟨v, ha, hr, hz, hs⟩ := advance_ready (w := w.setCore w.core.moveCursor) ho hf hv
      refine ⟨w.core.rbCur.getLsbD 0, v, ?_, hr, ?_⟩
      · rw [nextBit_advance he h7 hv, ha]; rfl
      · rw [hb, bitsLeft_at_zero hz, hs, h7]; rfl
    · have hp : w.core.rbPos.toNat ≠ 7 := fun k => h7 (BitVec.eq_of_toNat_eq k)
      have hv' : (w.setCore w.core.moveCursor).core.rbLa1V = true := hv
      refine ⟨_, _, nextBit_inside he hc (.inl h7), ⟨ho, ?_, hf⟩, ?_⟩
      · simp only [ReaderOk, Work.setCore_core, Core.moveCursor_hdrOk, Core.moveCursor_rbLa1V, ho, hv, if_true,
          Core.moveCursor_rbPos]
        bv_omega
      · rw [hb, bitsLeft_more hv' (by rw [moveCursor_pos hc]; omega), moveCursor_pos hc]
        rfl

theorem nextBit_gives {w : Work} {b : Bool} {rest : List Bool} (h : ReaderReady w) (hb : bitsLeft w = b :: rest) :
    ∃ v, nextBit w = .ok b v ∧ ReaderReady v ∧ bitsLeft v = rest := by
  rcases nextBit_cases h with ⟨hn, -⟩ | ⟨c, v, hv, hr, hc⟩
  · rw [hn] at hb; cases hb
  · rw [hc] at hb
    cases hb
    exact ⟨v, hv, hr, rfl⟩

/-- `read_bits` shifts in the first bits left (R109). -/
theorem readBits_gives {w : Work} (bs : List Bool) {rest : List Bool} (x : Word) (h : ReaderReady w)
    (hb : bitsLeft w = bs ++ rest) :
    ∃ v, readBits bs.length x w = .ok (bs.foldl shiftIn x) v ∧ ReaderReady v ∧ bitsLeft v = rest := by
  induction bs generalizing x w with
  | nil => exact ⟨w, rfl, h, hb⟩
  | cons b bs ih =>
    obtain ⟨u, hu, hr, hl⟩ := nextBit_gives h hb
    obtain ⟨v, hv, k⟩ := ih (shiftIn x b) hr hl
    exact ⟨v, by simpa [readBits, hu] using hv, k⟩

/-- With too few bits left `read_bits` raises `CORRUPT_DATA` (R109). -/
theorem readBits_short {w : Work} {n : Nat} (x : Word) (h : ReaderReady w) (hb : (bitsLeft w).length < n) :
    ∃ v, readBits n x w = .raised .corruptData v := by
  induction n generalizing x w with
  | zero => omega
  | succ n ih =>
    rcases nextBit_cases h with ⟨-, he⟩ | ⟨b, u, hu, hr, hl⟩
    · exact ⟨w, by simp [readBits, he]⟩
    · rw [hl, List.length_cons] at hb
      obtain ⟨v, hv⟩ := ih (shiftIn x b) hr (by omega)
      exact ⟨v, by simpa [readBits, hu] using hv⟩

/-- Eight bits shifted in spell the byte whose bits they are. -/
theorem shiftIn_byteBits : ∀ b : Byte, ((byteBits b).foldl shiftIn 0).setWidth 8 = b := by decide +kernel

/-- Any eight bits are those of a byte. -/
theorem exists_byteBits_eq (bs : List Bool) (h : bs.length = 8) : ∃ b, byteBits b = bs := by
  match bs, h with
  | [a, b, c, d, e, f, g, k], _ =>
    refine ⟨([a, b, c, d, e, f, g, k].foldl shiftIn 0).setWidth 8, ?_⟩
    revert a b c d e f g k
    decide +kernel

end Sys2Proof.Machine

/-! ## `DESER_TREE` and the arena in preorder (R27, R118, R119) -/

namespace Sys2Proof.Machine

/-! ### A tree's numbers and its place in the arena -/

theorem Tree.leaves_eq (t : Tree) : t.leaves = t.internals + 1 := by
  induction t with
  | leaf b => rfl
  | node z o hz ho => simp only [Tree.leaves, Tree.internals]; omega

/-- The slots a tree takes (R27). -/
def Tree.slots (t : Tree) : Nat := t.internals + t.leaves

theorem Tree.slots_pos (t : Tree) : 0 < t.slots := by
  have := t.leaves_eq
  unfold Tree.slots
  omega

theorem Tree.slots_node (z o : Tree) : (Tree.node z o).slots = 1 + z.slots + o.slots := by
  simp only [Tree.slots, Tree.leaves, Tree.internals]
  omega

theorem Tree.two_mul_leaves (t : Tree) : 2 * t.leaves = t.slots + 1 := by
  have := t.leaves_eq
  unfold Tree.slots
  omega

theorem slot_toNat {i : Nat} (h : i < 512) : (BitVec.ofNat 9 i).toNat = i := by
  simp [Nat.mod_eq_of_lt h]

theorem slot_eq {j : Slot} {i : Nat} (h : j.toNat = i) : j = BitVec.ofNat 9 i := by
  subst h; simp

theorem slot_ne_null {i : Nat} (h : i < 511) : (BitVec.ofNat 9 i : Slot) ≠ Config.nullSlot := by
  intro k
  have := congrArg BitVec.toNat k
  rw [slot_toNat (by omega)] at this
  simp at this
  omega

/-- Where a tree stands is a matter of its own slots alone. -/
theorem laidOut_congr {c d : Core} {t : Tree} {i : Nat} (hi : i + t.slots ≤ 512)
    (h : ∀ j : Slot, i ≤ j.toNat → j.toNat < i + t.slots → d.nodeAt j = c.nodeAt j) (hc : laidOut c t i) :
    laidOut d t i := by
  have hpos := t.slots_pos
  have hroot : d.nodeAt (BitVec.ofNat 9 i) = c.nodeAt (BitVec.ofNat 9 i) :=
    h _ (by rw [slot_toNat (by omega)]) (by rw [slot_toNat (by omega)]; omega)
  induction t generalizing i with
  | leaf b => simpa only [laidOut, hroot] using hc
  | node z o hz ho =>
    have hn := Tree.slots_node z o
    have hl := z.two_mul_leaves
    have pz := z.slots_pos
    have po := o.slots_pos
    obtain ⟨h1, h2, h3, h4, h5⟩ := hc
    simp only [laidOut, hroot]
    refine ⟨h1, h2, hz (by omega) (fun j _ _ => h j (by omega) (by omega)) h3 pz ?_, h4,
      ho (by omega) (fun j _ _ => h j (by omega) (by omega)) h5 po ?_⟩
    all_goals exact h _ (by rw [slot_toNat (by omega)]; omega) (by rw [slot_toNat (by omega)]; omega)

/-- A tree that stands in the arena is read back from it. -/
theorem treeAt_of_laidOut {c : Core} {t : Tree} {i d : Nat} (h : laidOut c t i) (hi : i + t.slots ≤ 511)
    (hd : t.internals < d) : c.treeAt d (BitVec.ofNat 9 i) = some t := by
  have hpos := t.slots_pos
  have hnull : (BitVec.ofNat 9 i : Slot) ≠ Config.nullSlot := slot_ne_null (by omega)
  induction t generalizing i d with
  | leaf b =>
    obtain ⟨d, rfl⟩ := Nat.exists_eq_succ_of_ne_zero (n := d) (by omega)
    obtain ⟨h1, h2⟩ := h
    simp only [Core.treeAt, if_neg hnull, h1, h2, if_true]
  | node z o hz ho =>
    obtain ⟨d, rfl⟩ := Nat.exists_eq_succ_of_ne_zero (n := d) (by omega)
    have hn := Tree.slots_node z o
    have hl := z.two_mul_leaves
    have pz := z.slots_pos
    have po := o.slots_pos
    simp only [Tree.internals] at hd
    obtain ⟨h1, h2, h3, h4, h5⟩ := h
    have ez := hz h3 (by omega) (d := d) (by omega) pz (slot_ne_null (by omega))
    have eo := ho h5 (by omega) (d := d) (by omega) po (slot_ne_null (by omega))
    simp only [Core.treeAt, if_neg hnull, h1, Bool.false_eq_true, if_false, slot_eq h2, slot_eq h4, ez, eo]

/-- d is c with a tree planted from slot i on, in slots that all hold nodes; the other slots are as before. -/
structure Planted (t : Tree) (i : Nat) (c d : Core) : Prop where
  laid : laidOut d t i
  valid : ∀ j : Slot, i ≤ j.toNat → j.toNat < i + t.slots → (d.nodeAt j).valid = true
  others : ∀ j : Slot, j.toNat < i ∨ i + t.slots ≤ j.toNat → d.nodeAt j = c.nodeAt j

theorem Planted.of_node_eq {t : Tree} {i : Nat} {b c d : Core} (h : Planted t i c d) (hn : c.node = b.node) :
    Planted t i b d :=
  ⟨h.laid, h.valid, fun j hj => by rw [h.others j hj, Core.nodeAt, Core.nodeAt, hn]⟩

theorem planted_leaf {i : Nat} (hi : i < 511) (c : Core) (parent : Slot) (side : Bool) (b : Byte) :
    Planted (.leaf b) i c (c.setNode (BitVec.ofNat 9 i) (readLeaf parent side b)) := by
  have hnull : (BitVec.ofNat 9 i : Slot) ≠ Config.nullSlot := slot_ne_null hi
  have hs : (Tree.leaf b).slots = 1 := rfl
  refine ⟨?_, fun j h1 h2 => ?_, fun j hj => nodeAt_setNode_other _ _ ?_⟩
  · simp only [laidOut, nodeAt_setNode_same _ _ _ hnull, readLeaf, and_self]
  · rw [slot_eq (show j.toNat = i by omega), nodeAt_setNode_same _ _ _ hnull]
    rfl
  · rintro rfl
    rw [slot_toNat (by omega)] at hj
    omega

/-- A node's children are written at its slot once each subtree stands (R118). -/
theorem planted_node {z o : Tree} {i : Nat} {c c₁ c₂ : Core} {parent : Slot} {side : Bool}
    (hi : i + (Tree.node z o).slots ≤ 511)
    (hz : Planted z (i + 1) (c.setNode (BitVec.ofNat 9 i) (readInternal parent side)) c₁)
    (ho : Planted o (i + 1 + z.slots)
      (c₁.setNode (BitVec.ofNat 9 i) { c₁.nodeAt (BitVec.ofNat 9 i) with c0 := BitVec.ofNat 9 (i + 1) }) c₂) :
    Planted (.node z o) i c
      (c₂.setNode (BitVec.ofNat 9 i)
        { c₂.nodeAt (BitVec.ofNat 9 i) with c1 := BitVec.ofNat 9 (i + 1 + z.slots) }) := by
  have hn := Tree.slots_node z o
  have hl := z.two_mul_leaves
  have pz := z.slots_pos
  have po := o.slots_pos
  have hnull : (BitVec.ofNat 9 i : Slot) ≠ Config.nullSlot := slot_ne_null (by omega)
  have hiN : (BitVec.ofNat 9 i : Slot).toNat = i := slot_toNat (by omega)
  have hne {j : Slot} (h : j.toNat ≠ i) : j ≠ BitVec.ofNat 9 i := fun k => h (k ▸ hiN)
  have hroot : c₂.nodeAt (BitVec.ofNat 9 i) =
      { readInternal parent side with c0 := BitVec.ofNat 9 (i + 1) } := by
    rw [ho.others _ (.inl (by omega)), nodeAt_setNode_same _ _ _ hnull, hz.others _ (.inl (by omega)),
      nodeAt_setNode_same _ _ _ hnull]
  have hzero {j : Slot} (h1 : i < j.toNat) (h2 : j.toNat < i + 1 + z.slots) : c₂.nodeAt j = c₁.nodeAt j := by
    rw [ho.others j (.inl h2), nodeAt_setNode_other _ _ (hne (by omega))]
  refine ⟨⟨?_, ?_, ?_, ?_, ?_⟩, fun j h1 h2 => ?_, fun j hj => ?_⟩
  · simp only [nodeAt_setNode_same _ _ _ hnull, hroot, readInternal]
  · simp only [nodeAt_setNode_same _ _ _ hnull, hroot]
    exact slot_toNat (by omega)
  · refine laidOut_congr (by omega) (fun j h1 h2 => ?_) hz.laid
    rw [nodeAt_setNode_other _ _ (hne (by omega)), hzero (by omega) (by omega)]
  · simp only [nodeAt_setNode_same _ _ _ hnull]
    rw [slot_toNat (by omega)]
    omega
  · rw [show i + 2 * z.leaves = i + 1 + z.slots by omega]
    refine laidOut_congr (by omega) (fun j h1 h2 => ?_) ho.laid
    rw [nodeAt_setNode_other _ _ (hne (by omega))]
  · rcases Nat.eq_or_lt_of_le h1 with h1 | h1
    · rw [slot_eq h1.symm, nodeAt_setNode_same _ _ _ hnull, hroot]
      rfl
    · rw [nodeAt_setNode_other _ _ (hne (by omega))]
      by_cases h3 : j.toNat < i + 1 + z.slots
      · rw [hzero h1 h3]
        exact hz.valid j (by omega) h3
      · exact ho.valid j (by omega) (by omega)
  · rw [nodeAt_setNode_other _ _ (hne (by omega)), ho.others j (by omega), nodeAt_setNode_other _ _ (hne (by omega)),
      hz.others j (by omega), nodeAt_setNode_other _ _ (hne (by omega))]

/-! ### The deserializer on a description (R116, R118) -/

theorem ReaderMoves.node_eq {w v : Work} (h : ReaderMoves w v) : v.core.node = w.core.node := by
  rw [h.core]

theorem ReaderReady.putNode {w : Work} (h : ReaderReady w) (i : Slot) (n : Node) : ReaderReady (putNode i n w) :=
  ⟨h.isOpen, h.cursor, h.footer⟩

/-- A 1, then the byte of a leaf (R118). -/
theorem deser_leaf {d : Nat} {parent : Slot} {side : Bool} {t : Tally} {w u v : Work} {x : Word}
    (hu : nextBit w = .ok true u) (hv : readBits 8 0 u = .ok x v) :
    deser (d + 1) parent side t w =
      .ok (BitVec.ofNat 9 t.nextSlot, { nextSlot := t.nextSlot + 1, nint := t.nint, nleaf := t.nleaf + 1 })
        (putNode (BitVec.ofNat 9 t.nextSlot) (readLeaf parent side (x.setWidth 8)) v) := by
  simp only [deser, hu, hv, Res.bind_ok, if_true]

/-- A 0, then the two subtrees of an internal node (R118). -/
theorem deser_node {d : Nat} {parent j k : Slot} {side : Bool} {t t₁ t₂ : Tally} {w u v₁ v₂ : Work}
    (hu : nextBit w = .ok false u) (hn : t.nint + 1 ≤ 255)
    (h₁ : deser d (BitVec.ofNat 9 t.nextSlot) false
      { nextSlot := t.nextSlot + 1, nint := t.nint + 1, nleaf := t.nleaf }
      (putNode (BitVec.ofNat 9 t.nextSlot) (readInternal parent side) u) = .ok (j, t₁) v₁)
    (h₂ : deser d (BitVec.ofNat 9 t.nextSlot) true t₁ (putC0 (BitVec.ofNat 9 t.nextSlot) j v₁) = .ok (k, t₂) v₂) :
    deser (d + 1) parent side t w =
      .ok (BitVec.ofNat 9 t.nextSlot, t₂) (putC1 (BitVec.ofNat 9 t.nextSlot) k v₂) := by
  have hn' : ¬ Config.maxInternal < t.nint + 1 := by simpa using hn
  simp only [deser, hu, Res.bind_ok, Bool.false_eq_true, if_false, if_neg hn', h₁, h₂]

/-- Where the bits left begin with a tree's description, the deserializer plants that tree at the next slot and leaves
the bits after it. The working values stay within their bounds: at most twice as many slots as internal nodes are
taken when a subtree begins, and at most one level is used for each internal node. -/
theorem deser_reads (tr : Tree) {d : Nat} {parent : Slot} {side : Bool} {t : Tally} {w : Work} {rest : List Bool}
    (h : ReaderReady w) (hb : bitsLeft w = tr.bits ++ rest) (hn : t.nint + tr.internals ≤ 255)
    (hs : t.nextSlot ≤ 2 * t.nint) (hd : 256 ≤ d + t.nint) :
    ∃ v, deser d parent side t w =
        .ok (BitVec.ofNat 9 t.nextSlot,
          { nextSlot := t.nextSlot + tr.slots, nint := t.nint + tr.internals, nleaf := t.nleaf + tr.leaves }) v ∧
      ReaderReady v ∧ bitsLeft v = rest ∧ Planted tr t.nextSlot w.core v.core := by
  obtain ⟨d, rfl⟩ := Nat.exists_eq_succ_of_ne_zero (n := d) (by omega)
  induction tr generalizing d parent side t w rest with
  | leaf b =>
    obtain ⟨u, hu, ru, lu⟩ := nextBit_gives h hb
    obtain ⟨v, hv, rv, lv⟩ := readBits_gives (byteBits b) 0 ru lu
    have hnode : v.core.node = w.core.node :=
      (((nextBit_post w).of_ok hu).trans ((readBits_post _ _ _).of_ok hv)).node_eq
    refine ⟨_, deser_leaf hu hv, rv.putNode _ _, lv, ?_⟩
    rw [shiftIn_byteBits]
    exact (planted_leaf (by simp only [Tree.internals] at hn; omega) v.core parent side b).of_node_eq hnode
  | node z o hz ho =>
    have hnn := Tree.slots_node z o
    have lz := z.leaves_eq
    have lo := o.leaves_eq
    have sz : z.slots = z.internals + z.leaves := rfl
    have so : o.slots = o.internals + o.leaves := rfl
    simp only [Tree.bits, List.cons_append, List.append_assoc] at hb
    simp only [Tree.internals] at hn
    obtain ⟨d, rfl⟩ := Nat.exists_eq_succ_of_ne_zero (n := d) (by omega)
    obtain ⟨u, hu, ru, lu⟩ := nextBit_gives h hb
    obtain ⟨v₁, h₁, r₁, l₁, p₁⟩ := hz (parent := BitVec.ofNat 9 t.nextSlot) (side := false)
      (t := { nextSlot := t.nextSlot + 1, nint := t.nint + 1, nleaf := t.nleaf })
      (ru.putNode (BitVec.ofNat 9 t.nextSlot) (readInternal parent side)) lu
      (by simp only; omega) (by simp only; omega) (d := d) (by simp only; omega)
    obtain ⟨v₂, h₂, r₂, l₂, p₂⟩ := ho (parent := BitVec.ofNat 9 t.nextSlot) (side := true)
      (t := { nextSlot := t.nextSlot + 1 + z.slots, nint := t.nint + 1 + z.internals, nleaf := t.nleaf + z.leaves })
      (r₁.putNode (BitVec.ofNat 9 t.nextSlot) _) l₁
      (by simp only; omega) (by simp only; omega) (d := d) (by simp only; omega)
    refine ⟨_, ?_, r₂.putNode (BitVec.ofNat 9 t.nextSlot) _, l₂,
      (planted_node (by omega) p₁ p₂).of_node_eq ((nextBit_post w).of_ok hu).node_eq⟩
    rw [deser_node hu (by omega) h₁ h₂]
    simp only [hnn, Tree.internals, Tree.leaves, Nat.add_assoc]
    rfl

/-- The deserializer reads the description of a tree that keeps the internal nodes within 255, or raises
`CORRUPT_DATA` (R118, R140). -/
theorem deser_total {d : Nat} {parent : Slot} {side : Bool} {t : Tally} {w : Work} (h : ReaderReady w)
    (hn : t.nint ≤ 255) (hd : 256 ≤ d + t.nint) :
    (deser d parent side t w).Post
      (fun r v => ReaderReady v ∧ ∃ tr : Tree, bitsLeft w = tr.bits ++ bitsLeft v ∧
        r.2.nint = t.nint + tr.internals ∧ r.2.nint ≤ 255)
      (fun e _ => e = .corruptData) (fun _ => False) := by
  induction d generalizing parent side t w with
  | zero => omega
  | succ d ih =>
    unfold deser
    rcases nextBit_cases h with ⟨-, he⟩ | ⟨b, u, hu, ru, lu⟩
    · simp only [he, Res.bind_raised]
      rfl
    simp only [hu, Res.bind_ok]
    cases b with
    | true =>
      simp only [if_true]
      rcases Nat.lt_or_ge (bitsLeft u).length 8 with hl | hl
      · obtain ⟨v, hv⟩ := readBits_short 0 ru hl
        simp only [hv, Res.bind_raised]
        rfl
      · obtain ⟨b, hb⟩ := exists_byteBits_eq ((bitsLeft u).take 8) (by simpa using hl)
        have hb' : bitsLeft u = byteBits b ++ (bitsLeft u).drop 8 := by rw [hb, List.take_append_drop]
        obtain ⟨v, hv, rv, lv⟩ := readBits_gives (byteBits b) 0 ru hb'
        rw [byteBits_length] at hv
        simp only [hv, Res.bind_ok]
        refine ⟨rv.putNode _ _, .leaf b, ?_, rfl, hn⟩
        rw [lu, hb', ← lv]
        rfl
    | false =>
      simp only [Bool.false_eq_true, if_false]
      split
      · rfl
      next hlt =>
        have hn1 : t.nint + 1 ≤ 255 := by simpa using hlt
        refine Res.Post.bind (ih (ru.putNode _ _) hn1 (by simp only; omega)) ?_
        rintro ⟨j, t₁⟩ v₁ ⟨r₁, z, lz, nz, hz⟩
        refine Res.Post.bind (ih (r₁.putNode _ _) hz (by simp only at nz ⊢; omega)) ?_
        rintro ⟨k, t₂⟩ v₂ ⟨r₂, o, lo, no, ho⟩
        refine ⟨r₂.putNode _ _, .node z o, ?_, ?_, ho⟩
        · change bitsLeft u = z.bits ++ bitsLeft v₁ at lz
          change bitsLeft v₁ = o.bits ++ bitsLeft v₂ at lo
          change bitsLeft w = false :: (z.bits ++ o.bits) ++ bitsLeft v₂
          rw [lu, lz, lo, List.cons_append, List.append_assoc]
        · simp only [Tree.internals] at nz no ⊢
          omega

/-- A description that begins with k marks of internal nodes has at least k of them. -/
theorem le_internals_of_replicate {t : Tree} {k : Nat} {r v : List Bool}
    (h : t.bits ++ r = List.replicate k false ++ v) : k ≤ t.internals := by
  induction t generalizing k r v with
  | leaf b =>
    cases k with
    | zero => exact Nat.zero_le _
    | succ k => simp [Tree.bits, List.replicate_succ] at h
  | node z o hz _ =>
    cases k with
    | zero => exact Nat.zero_le _
    | succ k =>
      simp only [Tree.bits, List.replicate_succ, List.cons_append, List.append_assoc, List.cons.injEq, true_and] at h
      have := hz h
      simp only [Tree.internals]
      omega

/-! ### `DESER_TREE` (R119) -/

/-- `TREE_V` and `CODES_V` cleared, every slot empty: what the deserializer starts from (R119). -/
def deserStart (w : Work) : Work := w.setCore { w.core with treeV := false, codesV := false }.clearNodes

theorem deserTree_eq (w : Work) :
    deserTree w =
      (deser 256 Config.nullSlot false { nextSlot := 0, nint := 0, nleaf := 0 } (deserStart w)).bind fun r v =>
        .ok () (v.setCore { v.core with
          root := r.1, nleaf := BitVec.ofNat 9 r.2.nleaf, treeSrc := true, treeV := true }) := rfl

theorem deserStart_ready {w : Work} (h : ReaderReady w) : ReaderReady (deserStart w) := ⟨h.isOpen, h.cursor, h.footer⟩

theorem deserTree_reads {w : Work} {tr : Tree} {rest : List Bool} (h : ReaderReady w) (hi : tr.internals ≤ 255)
    (hb : bitsLeft w = tr.bits ++ rest) :
    ∃ v, deserTree w = .ok () v ∧ InputOnly w.ports v.ports ∧ ReaderReady v ∧ bitsLeft v = rest ∧
      v.core.root = 0 ∧ v.core.nleaf = BitVec.ofNat 9 tr.leaves ∧ Planted tr 0 (deserStart w).core v.core := by
  obtain ⟨u, hu, ru, lu, hp⟩ := deser_reads tr (d := 256) (parent := Config.nullSlot) (side := false)
    (t := { nextSlot := 0, nint := 0, nleaf := 0 }) (deserStart_ready h) hb (by simpa using hi) (le_refl _) (le_refl _)
  refine ⟨u.setCore { u.core with
      root := 0, nleaf := BitVec.ofNat 9 tr.leaves, treeSrc := true, treeV := true }, ?_, (deser_moves hu).ports,
    ⟨ru.isOpen, ru.cursor, ru.footer⟩, lu, rfl, rfl, ?_⟩
  · rw [deserTree_eq, hu]
    simp
  · have hs : 0 + tr.slots ≤ 512 := by have := tr.leaves_eq; unfold Tree.slots; omega
    exact ⟨laidOut_congr (c := u.core) hs (fun _ _ _ => rfl) hp.laid, hp.valid, hp.others⟩

theorem deserTree_corrupt {w : Work} (h : ReaderReady w)
    (hb : ∀ (tr : Tree) (rest : List Bool), tr.internals ≤ 255 → bitsLeft w ≠ tr.bits ++ rest) :
    ∃ v, deserTree w = .raised .corruptData v := by
  rw [deserTree_eq]
  have hp := deser_total (d := 256) (parent := Config.nullSlot) (side := false)
    (t := { nextSlot := 0, nint := 0, nleaf := 0 }) (deserStart_ready h) (by simp) (by simp)
  cases hd : deser 256 Config.nullSlot false { nextSlot := 0, nint := 0, nleaf := 0 } (deserStart w) with
  | ok r v =>
    rw [hd] at hp
    obtain ⟨-, tr, hl, hn, hm⟩ := hp
    exact absurd hl (hb tr _ (by simp only at hn; omega))
  | raised e v =>
    rw [hd] at hp
    obtain rfl : e = .corruptData := hp
    exact ⟨v, rfl⟩
  | stuck f =>
    rw [hd] at hp
    exact hp.elim

theorem execDeserTree_eq {s : State} (hi : s.launch.inPresent = true) (ho : s.core.hdrOk = true) :
    exec .deserTree s = settle s (deserTree s.work) :=
  checked_ready (needsIn := true) (needsOut := false) (fun _ => hi) (fun k => by cases k) ho

theorem execDeserTree_corrupt {s : State} (hi : s.launch.inPresent = true) (h : ReaderReady s.work)
    (hb : ∀ (tr : Tree) (rest : List Bool), tr.internals ≤ 255 → bitsLeft s.work ≠ tr.bits ++ rest) :
    ∃ t, exec .deserTree s = .next t ∧ Failed .corruptData s t := by
  obtain ⟨v, hv⟩ := deserTree_corrupt h hb
  exact ⟨raise .corruptData (s.setWork v), by rw [execDeserTree_eq hi h.isOpen, hv]; rfl, rfl⟩

/-- Settles O54: where a description stands, by induction on its tree; where none stands, by induction on the levels
of the recursion, which can end only in a tree read or in `CORRUPT_DATA`. -/
theorem deserTreeReadsDescription : Obligations.DeserTreeReadsDescription := by
  unfold Obligations.DeserTreeReadsDescription
  refine ⟨?_, ?_, ?_⟩
  · intro s tr rest hi ho hc hf hn hb
    obtain ⟨v, hv, hports, ready, hleft, hroot, hleaf, hp⟩ := deserTree_reads ⟨ho, hc, hf⟩ hn hb
    have hslots : tr.slots = 2 * tr.leaves - 1 := by have := tr.two_mul_leaves; omega
    have hleaves := tr.leaves_eq
    refine ⟨complete (s.setWork v), by rw [execDeserTree_eq hi ho, hv]; rfl, rfl, deserTree_frame hv, hports,
      ready.cursor, hleft, ?_, hroot, ?_, hp.laid, fun i => ?_⟩
    · change v.core.treeAt 256 v.core.root = some tr
      rw [hroot]
      exact treeAt_of_laidOut (i := 0) hp.laid (by omega) (by omega)
    · change v.core.nleaf.toNat = tr.leaves
      rw [hleaf, slot_toNat (by omega)]
    · change (v.core.nodeAt i).valid = true ↔ _
      by_cases h : i.toNat < 2 * tr.leaves - 1
      · exact iff_of_true (hp.valid i (Nat.zero_le _) (by omega)) h
      · rw [hp.others i (.inr (by omega))]
        exact iff_of_false (by simp [deserStart, Node.empty]) h
  · intro s rest hi ho hc hf hb
    refine execDeserTree_corrupt hi ⟨ho, hc, hf⟩ fun tr r hn k => ?_
    have := le_internals_of_replicate (k.symm.trans hb)
    omega
  · intro s hi ho hc hf hb
    exact execDeserTree_corrupt hi ⟨ho, hc, hf⟩ hb

end Sys2Proof.Machine

/-! ## `BUILD_TREE` and the arena it leaves (R26, R84, R85) -/

namespace Sys2Proof.Machine

/-! ### The symbols present, and their leaves (R84) -/

theorem allSymbols_nodup : allSymbols.Nodup := by
  refine List.nodup_range.map_on fun i hi j hj h => ?_
  have := congrArg BitVec.toNat h
  simpa [Nat.mod_eq_of_lt (List.mem_range.mp hi), Nat.mod_eq_of_lt (List.mem_range.mp hj)] using this

theorem allSymbols_zip_freq (c : Core) : allSymbols.zip c.freq.toList = allSymbols.map fun b => (b, c.freqOf b) := by
  refine List.ext_getElem (by simp [allSymbols_length]) fun i h1 h2 => ?_
  have hi : i < 256 := by simpa [allSymbols_length] using h2
  simp [allSymbols, Core.freqOf, Nat.mod_eq_of_lt hi]

theorem present_eq (c : Core) : present c = allSymbols.filter fun b => c.freqOf b != 0 := by
  simp only [present, allSymbols_zip_freq, List.filter_map, List.map_map]
  exact List.map_id _

theorem mem_present {c : Core} {b : Byte} : b ∈ present c ↔ c.freqOf b ≠ 0 := by
  simp [present_eq, mem_allSymbols]

theorem present_nodup (c : Core) : (present c).Nodup := by
  rw [present_eq]
  exact allSymbols_nodup.filter _

theorem present_length_le (c : Core) : (present c).length ≤ 256 := by
  rw [present_eq, ← allSymbols_length]
  exact List.length_filter_le _ _

theorem leafSlot_toNat (b : Byte) : (leafSlot b).toNat = b.toNat := by
  have := b.isLt
  simp [leafSlot]
  omega

theorem leafSlot_lt (b : Byte) : (leafSlot b).toNat < 256 := by
  rw [leafSlot_toNat]
  exact b.isLt

theorem leafSlot_injective : Function.Injective leafSlot := fun a b h =>
  BitVec.eq_of_toNat_eq (by rw [← leafSlot_toNat, ← leafSlot_toNat, h])

theorem exists_leafSlot_eq {i : Slot} (h : i.toNat < 256) : ∃ b, leafSlot b = i :=
  ⟨BitVec.ofNat 8 i.toNat, BitVec.eq_of_toNat_eq (by rw [leafSlot_toNat]; simp [Nat.mod_eq_of_lt h])⟩

theorem leafSlot_ne_null (b : Byte) : leafSlot b ≠ Config.nullSlot := fun h =>
  absurd (leafSlot_lt b) (by rw [h]; decide)

theorem placeLeaves_nodeAt_other {bs : List Byte} {c : Core} {i : Slot} (h : ∀ b ∈ bs, i ≠ leafSlot b) :
    (bs.foldl placeLeaf c).nodeAt i = c.nodeAt i := by
  induction bs generalizing c with
  | nil => rfl
  | cons b bs ih =>
    rw [List.foldl_cons, ih fun x hx => h x (List.mem_cons_of_mem _ hx)]
    exact nodeAt_setNode_other _ _ (h b List.mem_cons_self)

/-- The leaf of a symbol (R84). -/
def leafNode (c : Core) (b : Byte) : Node :=
  { valid := true, leaf := true, side := false, sym := b, minSym := b
    parent := Config.nullSlot, c0 := Config.nullSlot, c1 := Config.nullSlot, w := (c.freqOf b).setWidth 40 }

theorem placeLeaves_nodeAt_leafSlot {bs : List Byte} {c : Core} {b : Byte} (h : b ∈ bs) :
    (bs.foldl placeLeaf c).nodeAt (leafSlot b) = leafNode c b := by
  induction bs generalizing c with
  | nil => cases h
  | cons a bs ih =>
    rw [List.foldl_cons]
    by_cases hb : b ∈ bs
    · exact ih hb
    · obtain rfl : b = a := by simpa [hb] using h
      rw [placeLeaves_nodeAt_other fun x hx k => hb (leafSlot_injective (a₁ := b) k ▸ hx)]
      exact nodeAt_setNode_same _ _ _ (leafSlot_ne_null b)

/-! ### One merge (R84) -/

theorem firstOf_mem (c : Core) (a : Slot) (rest : List Slot) : firstOf c a rest ∈ a :: rest := by
  unfold firstOf
  induction rest generalizing a with
  | nil => exact List.mem_cons_self
  | cons x xs ih =>
    rw [List.foldl_cons]
    split
    · exact List.mem_cons_of_mem _ (ih x)
    · rcases List.mem_cons.mp (ih a) with h | h
      · rw [h]
        exact List.mem_cons_self
      · exact List.mem_cons_of_mem _ (List.mem_cons_of_mem _ h)

/-- Adoption writes a node's parent and side, and nothing else of it. -/
theorem adopt_nodeAt (c : Core) (i p j : Slot) (side : Bool) :
    ∃ q sd, (adopt c i p side).nodeAt j = { c.nodeAt j with parent := q, side := sd } := by
  by_cases hj : j = i
  · subst hj
    by_cases hn : j = Config.nullSlot
    · subst hn
      exact ⟨_, _, by rw [adopt, setNode_null]⟩
    · exact ⟨_, _, nodeAt_setNode_same _ _ _ hn⟩
  · exact ⟨_, _, nodeAt_setNode_other _ _ hj⟩

theorem adopt_nodeAt_other {c : Core} {i p j : Slot} {side : Bool} (h : j ≠ i) :
    (adopt c i p side).nodeAt j = c.nodeAt j := nodeAt_setNode_other _ _ h

theorem mergeInto_nodeAt_parent {c : Core} {p a b : Slot} (hp : p ≠ Config.nullSlot) (ha : p ≠ a) (hb : p ≠ b) :
    (mergeInto c p a b).nodeAt p = mergedNode c a b := by
  rw [mergeInto, adopt_nodeAt_other hb, adopt_nodeAt_other ha, nodeAt_setNode_same _ _ _ hp]

theorem mergeInto_nodeAt {c : Core} {p i : Slot} (a b : Slot) (h : i ≠ p) :
    ∃ q sd, (mergeInto c p a b).nodeAt i = { c.nodeAt i with parent := q, side := sd } := by
  obtain ⟨q, sd, h1⟩ := adopt_nodeAt (c.setNode p (mergedNode c a b)) a p i false
  obtain ⟨q', sd', h2⟩ := adopt_nodeAt (adopt (c.setNode p (mergedNode c a b)) a p false) b p i true
  exact ⟨q', sd', by rw [mergeInto, h2, h1, nodeAt_setNode_other _ _ h]⟩

theorem mergeInto_nodeAt_other {c : Core} {p a b i : Slot} (hp : i ≠ p) (ha : i ≠ a) (hb : i ≠ b) :
    (mergeInto c p a b).nodeAt i = c.nodeAt i := by
  rw [mergeInto, adopt_nodeAt_other hb, adopt_nodeAt_other ha, nodeAt_setNode_other _ _ hp]

/-! ### The arena while it is merged -/

/-- The slots in use after k merges of the symbols' leaves: the symbols' own, and the k after 255 (R84, R85). -/
structure Grove (syms : List Byte) (k : Nat) (c : Core) : Prop where
  leafValid : ∀ b, (c.nodeAt (leafSlot b)).valid = true ↔ b ∈ syms
  leafNode : ∀ b ∈ syms, (c.nodeAt (leafSlot b)).leaf = true ∧ (c.nodeAt (leafSlot b)).sym = b
  innerValid : ∀ i : Slot, 256 ≤ i.toNat → ((c.nodeAt i).valid = true ↔ i.toNat < 256 + k)
  innerNode : ∀ i : Slot, 256 ≤ i.toNat → (c.nodeAt i).valid = true → (c.nodeAt i).leaf = false
  children : ∀ i : Slot, (c.nodeAt i).valid = true → (c.nodeAt i).leaf = false →
    (c.nodeAt (c.nodeAt i).c0).valid = true ∧ (c.nodeAt (c.nodeAt i).c1).valid = true ∧ (c.nodeAt i).c0 ≠ (c.nodeAt i).c1
  empty : ∀ i : Slot, (c.nodeAt i).valid = false → c.nodeAt i = Node.empty

/-- p is an internal node, and i one of its children. -/
def IsChild (c : Core) (p i : Slot) : Prop :=
  (c.nodeAt p).valid = true ∧ (c.nodeAt p).leaf = false ∧ ((c.nodeAt p).c0 = i ∨ (c.nodeAt p).c1 = i)

/-- The worklist holds the roots of the trees built so far; every other node is the child of exactly one node, and the
node made last stands last (R84, R85). -/
structure Forest (syms : List Byte) (k : Nat) (work : List Slot) (c : Core) : Prop where
  grove : Grove syms k c
  count : k + work.length = syms.length
  nodup : work.Nodup
  roots : ∀ i ∈ work, (c.nodeAt i).valid = true ∧ (c.nodeAt i).parent = Config.nullSlot
  noParent : ∀ i ∈ work, ∀ p, ¬ IsChild c p i
  oneParent : ∀ i : Slot, (c.nodeAt i).valid = true → i ∉ work → ∃! p, IsChild c p i
  last : 0 < k → work.getLast? = some (BitVec.ofNat 9 (255 + k))

section Leaves

variable {c : Core} {syms : List Byte}

theorem placeLeaves_valid {i : Slot} :
    ((syms.foldl placeLeaf c.clearNodes).nodeAt i).valid = true ↔ ∃ b ∈ syms, leafSlot b = i := by
  constructor
  · intro h
    by_contra hn
    rw [placeLeaves_nodeAt_other fun b hb k => hn ⟨b, hb, k.symm⟩, nodeAt_clearNodes] at h
    cases h
  · rintro ⟨b, hb, rfl⟩
    rw [placeLeaves_nodeAt_leafSlot hb]
    rfl

theorem placeLeaves_leaf {i : Slot} (h : ((syms.foldl placeLeaf c.clearNodes).nodeAt i).valid = true) :
    ((syms.foldl placeLeaf c.clearNodes).nodeAt i).leaf = true := by
  obtain ⟨b, hb, rfl⟩ := placeLeaves_valid.mp h
  rw [placeLeaves_nodeAt_leafSlot hb]
  rfl

theorem not_isChild_placeLeaves (p i : Slot) : ¬ IsChild (syms.foldl placeLeaf c.clearNodes) p i := by
  rintro ⟨h1, h2, -⟩
  rw [placeLeaves_leaf h1] at h2
  cases h2

theorem grove_leaves : Grove syms 0 (syms.foldl placeLeaf c.clearNodes) := by
  have hinner {i : Slot} (hi : 256 ≤ i.toNat) : ¬ ((syms.foldl placeLeaf c.clearNodes).nodeAt i).valid = true := by
    intro h
    obtain ⟨b, -, rfl⟩ := placeLeaves_valid.mp h
    exact absurd (leafSlot_lt b) (by omega)
  refine
    { leafValid := fun b => ?_, leafNode := fun b hb => ?_, innerValid := fun i hi => ?_
      innerNode := fun i hi h => absurd h (hinner hi)
      children := fun i h1 h2 => absurd ⟨h1, h2, .inl rfl⟩ (not_isChild_placeLeaves i _), empty := fun i hi => ?_ }
  · rw [placeLeaves_valid]
    exact ⟨fun ⟨a, ha, k⟩ => leafSlot_injective k ▸ ha, fun h => ⟨b, h, rfl⟩⟩
  · rw [placeLeaves_nodeAt_leafSlot hb]
    exact ⟨rfl, rfl⟩
  · exact iff_of_false (hinner hi) (by omega)
  · rw [placeLeaves_nodeAt_other, nodeAt_clearNodes]
    rintro b hb rfl
    rw [placeLeaves_nodeAt_leafSlot hb] at hi
    cases hi

theorem forest_leaves (hs : syms.Nodup) : Forest syms 0 (syms.map leafSlot) (syms.foldl placeLeaf c.clearNodes) := by
  refine
    { grove := grove_leaves, count := by simp, nodup := hs.map leafSlot_injective, roots := fun i hi => ?_
      noParent := fun i _ p => not_isChild_placeLeaves p i, oneParent := fun i h1 h2 => ?_, last := by simp }
  · obtain ⟨b, hb, rfl⟩ := List.mem_map.mp hi
    rw [placeLeaves_nodeAt_leafSlot hb]
    exact ⟨rfl, rfl⟩
  · obtain ⟨b, hb, rfl⟩ := placeLeaves_valid.mp h1
    exact absurd (List.mem_map_of_mem hb) h2

end Leaves

section Merge

variable {syms : List Byte} {k : Nat} {work : List Slot} {c : Core} {a b p : Slot}

theorem Grove.next_slot_free (h : Grove syms k c) (hk : k < 255) (hp : p = BitVec.ofNat 9 (256 + k)) :
    p ≠ Config.nullSlot ∧ (c.nodeAt p).valid = false := by
  have hpn : p.toNat = 256 + k := by rw [hp, slot_toNat (by omega)]
  refine ⟨hp ▸ slot_ne_null (by omega), ?_⟩
  rw [← Bool.not_eq_true, h.innerValid p (by omega)]
  omega

theorem ne_of_valid_of_free {i : Slot} (hp : (c.nodeAt p).valid = false) (hi : (c.nodeAt i).valid = true) : i ≠ p := by
  rintro rfl
  rw [hp] at hi
  cases hi

/-- A merge empties no slot. -/
theorem mergeInto_valid (hp : (c.nodeAt p).valid = false) {i : Slot} (hi : (c.nodeAt i).valid = true) :
    ((mergeInto c p a b).nodeAt i).valid = true := by
  obtain ⟨_, _, e⟩ := mergeInto_nodeAt a b (ne_of_valid_of_free hp hi)
  rw [e]
  exact hi

theorem Grove.child_valid (h : Grove syms k c) {q i : Slot} (hc : IsChild c q i) : (c.nodeAt i).valid = true := by
  obtain ⟨h1, h2, h3⟩ := hc
  obtain ⟨v0, v1, -⟩ := h.children q h1 h2
  rcases h3 with rfl | rfl
  · exact v0
  · exact v1

/-- A merge makes the two nodes children of the new one, and changes no other parentage. -/
theorem isChild_mergeInto (hn : p ≠ Config.nullSlot) (hp : (c.nodeAt p).valid = false) (ha : p ≠ a) (hb : p ≠ b)
    (q i : Slot) : IsChild (mergeInto c p a b) q i ↔ IsChild c q i ∨ (q = p ∧ (a = i ∨ b = i)) := by
  unfold IsChild
  by_cases hq : q = p
  · subst hq
    rw [mergeInto_nodeAt_parent hn ha hb]
    simp [mergedNode, hp]
  · obtain ⟨_, _, e⟩ := mergeInto_nodeAt (c := c) a b hq
    rw [e]
    simp [hq]

theorem Grove.merge (h : Grove syms k c) (ha : (c.nodeAt a).valid = true) (hb : (c.nodeAt b).valid = true)
    (hab : a ≠ b) (hk : k < 255) (hp : p = BitVec.ofNat 9 (256 + k)) : Grove syms (k + 1) (mergeInto c p a b) := by
  have hpn : p.toNat = 256 + k := by rw [hp, slot_toNat (by omega)]
  obtain ⟨hnull, hfree⟩ := h.next_slot_free hk hp
  have hnew : (mergeInto c p a b).nodeAt p = mergedNode c a b :=
    mergeInto_nodeAt_parent hnull (ne_of_valid_of_free hfree ha).symm (ne_of_valid_of_free hfree hb).symm
  refine
    { leafValid := fun x => ?_, leafNode := fun x hx => ?_, innerValid := fun i hi => ?_
      innerNode := fun i hi hv => ?_, children := fun i h1 h2 => ?_, empty := fun i hi => ?_ }
  · have hx : leafSlot x ≠ p := fun e => absurd (leafSlot_lt x) (by rw [e]; omega)
    obtain ⟨_, _, e⟩ := mergeInto_nodeAt (c := c) a b hx
    rw [e]
    exact h.leafValid x
  · obtain ⟨_, _, e⟩ := mergeInto_nodeAt a b (ne_of_valid_of_free hfree ((h.leafValid x).mpr hx))
    rw [e]
    exact h.leafNode x hx
  · by_cases hip : i = p
    · rw [hip, hnew]
      exact iff_of_true rfl (by omega)
    · obtain ⟨_, _, e⟩ := mergeInto_nodeAt (c := c) a b hip
      have : i.toNat ≠ p.toNat := fun k => hip (BitVec.eq_of_toNat_eq k)
      rw [e]
      exact (h.innerValid i hi).trans (by omega)
  · by_cases hip : i = p
    · rw [hip, hnew]
      rfl
    · obtain ⟨_, _, e⟩ := mergeInto_nodeAt (c := c) a b hip
      rw [e] at hv ⊢
      exact h.innerNode i hi hv
  · by_cases hip : i = p
    · rw [hip, hnew]
      exact ⟨mergeInto_valid hfree ha, mergeInto_valid hfree hb, hab⟩
    · obtain ⟨_, _, e⟩ := mergeInto_nodeAt (c := c) a b hip
      rw [e] at h1 h2 ⊢
      obtain ⟨v0, v1, hne⟩ := h.children i h1 h2
      exact ⟨mergeInto_valid hfree v0, mergeInto_valid hfree v1, hne⟩
  · have hip : i ≠ p := by
      rintro rfl
      rw [hnew] at hi
      cases hi
    have hni : (c.nodeAt i).valid = false := by
      rw [← Bool.not_eq_true]
      intro k
      rw [mergeInto_valid hfree k] at hi
      cases hi
    rw [mergeInto_nodeAt_other hip (ne_of_valid_of_free hni ha).symm (ne_of_valid_of_free hni hb).symm]
    exact h.empty i hni

theorem Forest.merge (h : Forest syms k work c) (ha : a ∈ work) (hb : b ∈ work.erase a) (hk : k < 255)
    (hp : p = BitVec.ofNat 9 (256 + k)) :
    Forest syms (k + 1) ((work.erase a).erase b ++ [p]) (mergeInto c p a b) := by
  obtain ⟨hba, hbw⟩ := h.nodup.mem_erase_iff.mp hb
  obtain ⟨hnull, hfree⟩ := h.grove.next_slot_free hk hp
  have root_ne {i : Slot} (hi : i ∈ work) : i ≠ p := ne_of_valid_of_free hfree (h.roots i hi).1
  have hpa := (root_ne ha).symm
  have hpb := (root_ne hbw).symm
  have hchild := isChild_mergeInto hnull hfree hpa hpb
  have hwork {i : Slot} : i ∈ (work.erase a).erase b ++ [p] ↔ (i ∈ work ∧ i ≠ a ∧ i ≠ b) ∨ i = p := by
    rw [List.mem_append, (h.nodup.erase a).mem_erase_iff, h.nodup.mem_erase_iff, List.mem_singleton]
    tauto
  have hpw : p ∉ (work.erase a).erase b := fun k =>
    root_ne (List.mem_of_mem_erase (List.mem_of_mem_erase k)) rfl
  refine
    { grove := h.grove.merge (h.roots a ha).1 (h.roots b hbw).1 hba.symm hk hp, count := ?_
      nodup := ((h.nodup.erase a).erase b).append (List.nodup_singleton p) (by simpa using hpw)
      roots := fun i hi => ?_, noParent := fun i hi q hq => ?_, oneParent := fun i h1 h2 => ?_, last := fun _ => ?_ }
  · have hc := h.count
    have hl := List.length_pos_of_mem hb
    rw [List.length_erase_of_mem ha] at hl
    rw [List.length_append, List.length_erase_of_mem hb, List.length_erase_of_mem ha, List.length_singleton]
    omega
  · rcases hwork.mp hi with ⟨hw, hia, hib⟩ | rfl
    · rw [mergeInto_nodeAt_other (root_ne hw) hia hib]
      exact h.roots i hw
    · rw [mergeInto_nodeAt_parent hnull hpa hpb]
      exact ⟨rfl, rfl⟩
  · rcases hwork.mp hi with ⟨hw, hia, hib⟩ | rfl
    · rcases (hchild q i).mp hq with hc | ⟨-, rfl | rfl⟩
      · exact h.noParent i hw q hc
      · exact hia rfl
      · exact hib rfl
    · rcases (hchild q i).mp hq with hc | ⟨-, rfl | rfl⟩
      · exact ne_of_valid_of_free hfree (h.grove.child_valid hc) rfl
      · exact hpa rfl
      · exact hpb rfl
  · simp only [hwork, not_or] at h2
    have hv : (c.nodeAt i).valid = true := by
      obtain ⟨_, _, e⟩ := mergeInto_nodeAt (c := c) a b h2.2
      rwa [e] at h1
    simp only [hchild]
    by_cases hm : a = i ∨ b = i
    · have hw : i ∈ work := by rcases hm with rfl | rfl <;> assumption
      exact ⟨p, .inr ⟨rfl, hm⟩, fun q hq => hq.elim (fun k => absurd k (h.noParent i hw q)) And.left⟩
    · have hw : i ∉ work := fun k => h2.1 ⟨k, fun e => hm (.inl e.symm), fun e => hm (.inr e.symm)⟩
      simpa only [hm, and_false, or_false] using h.oneParent i hv hw
  · rw [List.getLast?_concat, hp]
    congr 2
    omega

theorem Forest.of_one_root {r : Slot} (h : Forest syms k [r] c) : Forest syms (syms.length - 1) [r] c := by
  have hc := h.count
  rw [List.length_singleton] at hc
  rwa [show syms.length - 1 = k by omega]

/-- A forest is a matter of the arena's slots alone, not of the registers beside them. -/
theorem Forest.of_node_eq {d : Core} (h : Forest syms k work c) (e : d.node = c.node) : Forest syms k work d := by
  have he (i : Slot) : d.nodeAt i = c.nodeAt i := by rw [Core.nodeAt, Core.nodeAt, e]
  obtain ⟨⟨g1, g2, g3, g4, g5, g6⟩, f1, f2, f3, f4, f5, f6⟩ := h
  refine ⟨⟨?_, ?_, ?_, ?_, ?_, ?_⟩, f1, f2, ?_, ?_, ?_, f6⟩
  all_goals simpa only [IsChild, he]

/-- With a bound that reaches, the merges leave one root (R84). -/
theorem Forest.mergeAll_eq {m : Nat} (h : Forest syms k work c) (hw : work ≠ []) (hm : work.length ≤ m + 1)
    (hs : syms.length ≤ 256) :
    ∃ r d, mergeAll m k work c = (d, [r]) ∧ Forest syms (syms.length - 1) [r] d := by
  fun_induction mergeAll m k work c with
  | case1 k work c =>
    have hpos := List.length_pos_iff.mpr hw
    obtain ⟨r, rfl⟩ := List.length_eq_one_iff.mp (show work.length = 1 by omega)
    exact ⟨r, c, rfl, h.of_one_root⟩
  | case2 => exact absurd rfl hw
  | case3 m k r c => exact ⟨r, c, rfl, h.of_one_root⟩
  | case4 m k x y rest c work a left b p ih =>
    have ha : a ∈ work := firstOf_mem c x (y :: rest)
    have hl : left.length = rest.length + 1 := by
      rw [List.length_erase_of_mem ha]
      rfl
    have hb : b ∈ left := by
      obtain ⟨z, zs, hz⟩ := List.exists_cons_of_length_eq_add_one hl
      simp only [b, hz]
      exact firstOf_mem c z zs
    have hc := h.count
    have f := h.merge ha hb (by simp at hc; omega) (p := p) rfl
    refine ih f (by simp) ?_
    rw [List.length_append, List.length_erase_of_mem hb, hl]
    simpa using hm

end Merge

/-! ### `BUILD_TREE` (R84) -/

theorem buildTree_forest {w : Work} (h : present w.core ≠ []) :
    ∃ v, buildTree w = .ok () v ∧ v.core.nleaf = BitVec.ofNat 9 (present w.core).length ∧
      Forest (present w.core) ((present w.core).length - 1) [v.core.root] v.core := by
  have f := forest_leaves (c := { w.core with treeV := false, codesV := false }) (present_nodup w.core)
  obtain ⟨r, d, hd, hf⟩ := f.mergeAll_eq (m := (present w.core).length) (by simpa using h) (by simp)
    (present_length_le w.core)
  refine ⟨w.setCore { d with
    root := r, nleaf := BitVec.ofNat 9 (present w.core).length, treeSrc := false, treeV := true }, ?_, rfl, ?_⟩
  · simp only [buildTree, if_neg h, hd]
    rfl
  · exact hf.of_node_eq rfl

/-- Settles O37: the arena is a forest of the present symbols' leaves, every merge keeps it one, and the merges end with
one root. -/
theorem buildTreeArena : Obligations.BuildTreeArena := by
  unfold Obligations.BuildTreeArena
  intro s n hn h1
  rw [← present_eq] at hn
  have hn256 : n ≤ 256 := hn ▸ present_length_le s.core
  obtain ⟨v, hv, hleaves, f⟩ := buildTree_forest (w := s.work) (List.ne_nil_of_length_pos (hn ▸ h1))
  change v.core.nleaf = BitVec.ofNat 9 (present s.core).length at hleaves
  change Forest (present s.core) ((present s.core).length - 1) [v.core.root] v.core at f
  rw [← hn] at hleaves f
  have g := f.grove
  have hroot := f.roots v.core.root List.mem_cons_self
  refine ⟨complete (s.setWork v), ?_, fun b => ⟨?_, fun hb => ?_⟩, fun i hi => ⟨?_, fun hv => ?_⟩, g.empty,
    fun i hi hne => f.oneParent i hi (by simpa using hne), fun h2 => ?_, fun h2 => ⟨?_, hroot.2⟩, ?_⟩
  · change settle s (buildTree s.work) = _
    rw [hv]
    rfl
  · exact (g.leafValid b).trans mem_present
  · exact g.leafNode b ((g.leafValid b).mp hb)
  · exact (g.innerValid i hi).trans (by omega)
  · exact ⟨g.innerNode i hi hv, g.children i hv (g.innerNode i hi hv)⟩
  · have hl := f.last (by omega)
    simp only [List.getLast?_singleton, Option.some.injEq] at hl
    change v.core.root.toNat = _
    rw [hl, slot_toNat (by omega)]
    omega
  · have hlt : v.core.root.toNat < 256 := by
      by_contra k
      have := (g.innerValid _ (by omega)).mp hroot.1
      omega
    obtain ⟨b, hb⟩ := exists_leafSlot_eq hlt
    change (v.core.nodeAt v.core.root).leaf = true
    rw [← hb] at hroot ⊢
    exact (g.leafNode b ((g.leafValid b).mp hroot.1)).1
  · change v.core.nleaf.toNat = n
    rw [hleaves, slot_toNat (by omega)]

end Sys2Proof.Machine

/-! ## Host accesses and the words of a node slot (R43, R44, R47) -/

namespace Sys2Proof.Machine

/-! ### Where a register stands (R42) -/

theorem Reg.freq_offset_toNat (i : Fin 256) : (Reg.freq i).offset.toNat = 0x0400 + 4 * i.val :=
  Nat.mod_eq_of_lt (by omega)

theorem Reg.node_offset_toNat (i : Fin 511) (w : Fin 8) :
    (Reg.node i w).offset.toNat = 0x1000 + 32 * i.val + 4 * w.val :=
  Nat.mod_eq_of_lt (by omega)

theorem regAt_freq_offset (i : Fin 256) : regAt (Reg.freq i).offset = some (.freq i) := by
  have hi : Fin.ofNat 256 ((0x0400 + 4 * i.val - 0x400) / 4) = i := Fin.ext (by simp)
  simp only [regAt, Reg.freq_offset_toNat]
  rw [if_neg (by omega), if_pos (by omega), hi]

/-- At a multiple of 4, the register the map names is the one that stands there. -/
theorem offset_of_regAt {off : Offset} {r : Reg} (h4 : off.toNat % 4 = 0) (h : regAt off = some r) :
    r.offset = off := by
  apply BitVec.eq_of_toNat_eq
  unfold regAt at h
  dsimp only at h
  split at h
  · generalize hq : off.toNat / 4 = q at h
    have hq9 : q < 9 := by omega
    interval_cases q <;> cases h <;> simp only [Reg.offset, BitVec.reduceToNat] <;> omega
  · split_ifs at h <;> cases h <;> simp only [Reg.offset, BitVec.toNat_ofNat, Fin.val_ofNat] <;> omega

/-! ### Unsupported accesses (R44) -/

theorem supported_eq_false {off : Offset} {n : Nat} : supported off n = false ↔ n ≠ 4 ∨ off.toNat % 4 ≠ 0 := by
  simp [supported, imp_iff_not_or]

/-- Settles O25: the accesses R44 leaves out are those `supported` rejects. -/
theorem unsupportedAccessIgnored : Obligations.UnsupportedAccessIgnored := by
  unfold Obligations.UnsupportedAccessIgnored
  intro s off n v h
  have hs := supported_eq_false.mpr h
  exact ⟨regRead_unsupported hs s, regWrite_unsupported hs v s⟩

/-! ### Host writes, by `BUSY` (R47, R48) -/

/-- While `BUSY` is 1 only `CTRL`, `STATUS` and `CMD` take a write. -/
theorem writeReg_busy {r : Reg} {s : State} (v : Word) (hb : s.busy = true) (h0 : r ≠ .ctrl) (h1 : r ≠ .status)
    (h2 : r ≠ .cmd) : writeReg r v s = s := by
  rcases writeReg_cases r v s with ⟨h, -⟩ | ⟨h, -⟩ | ⟨h, -⟩ | ⟨-, h, -⟩ | ⟨_, -, h, -⟩ | h
  · exact absurd h h0
  · exact absurd h h1
  · exact absurd h h2
  · simp [hb] at h
  · simp [hb] at h
  · exact h

theorem regWrite_busy {off : Offset} {s : State} (n : Nat) (v : Word) (hb : s.busy = true) (h0 : off ≠ 0x0000)
    (h1 : off ≠ 0x0004) (h2 : off ≠ 0x0008) : regWrite off n v s = s := by
  by_cases hs : n = 4 ∧ off.toNat % 4 = 0
  · obtain ⟨rfl, h4⟩ := hs
    rw [regWrite_supported h4]
    cases hr : regAt off with
    | none => rfl
    | some r =>
      have ho := offset_of_regAt h4 hr
      exact writeReg_busy v hb (by rintro rfl; exact h0 ho.symm) (by rintro rfl; exact h1 ho.symm)
        (by rintro rfl; exact h2 ho.symm)
  · exact regWrite_unsupported (supported_eq_false.mpr (by tauto)) v s

theorem regWrite_ctrl (v : Word) (s : State) : regWrite 0x0000 4 v s = { s with ie := v.getLsbD 0 } := rfl

theorem regWrite_arg {s : State} (v : Word) (hb : s.busy = false) :
    regWrite 0x000C 4 v s = { s with core := { s.core with arg := v } } := by
  change writeReg .arg v s = _
  simp [writeReg, hb]

theorem regWrite_freq {s : State} (i : Fin 256) (v : Word) (hb : s.busy = false) :
    regWrite (Reg.freq i).offset 4 v s =
      { s with core := { s.core with freq := s.core.freq.set i.val v i.isLt } } := by
  rw [regWrite_supported (by rw [Reg.freq_offset_toNat]; omega), regAt_freq_offset]
  simp [writeReg, hb]

/-- Settles O27: a write goes to the register that stands at its offset, and what it does there `BUSY` decides. -/
theorem hostWritesArgAndFreq : Obligations.HostWritesArgAndFreq := by
  unfold Obligations.HostWritesArgAndFreq
  refine ⟨fun s v hb => regWrite_arg v hb, fun s i v hb => ⟨_, regWrite_freq i v hb, ?_, fun j hj => ?_⟩,
    fun s off n v hb => regWrite_busy n v hb, fun s v _ => regWrite_ctrl v s⟩
  · exact Vector.getElem_set_self i.isLt
  · exact Vector.getElem_set_ne i.isLt j.isLt fun h => hj (Fin.ext h.symm)

/-! ### Fields of a word -/

/-- The bits of a field that fits into the word. -/
theorem getLsbD_fieldAt {n lo : Nat} (h : lo + n ≤ 32) (v : BitVec n) (k : Nat) :
    (fieldAt lo v).getLsbD k = (decide (lo ≤ k) && v.getLsbD (k - lo)) := by
  simp only [fieldAt, BitVec.getLsbD_shiftLeft, BitVec.getLsbD_setWidth]
  by_cases hl : lo ≤ k
  · by_cases hk : k < 32
    · simp [hl, hk, show k - lo < 32 by omega]
    · simp [hk, BitVec.getLsbD_of_ge v (k - lo) (by omega)]
  · simp [hl]

theorem getLsbD_flagAt {lo : Nat} (h : lo < 32) (b : Bool) (k : Nat) :
    (flagAt lo b).getLsbD k = (decide (k = lo) && b) := by
  rw [flagAt, getLsbD_fieldAt (by omega), BitVec.getLsbD_ofBool, ← Bool.and_assoc]
  congr 1
  rw [← Bool.decide_and]
  exact decide_eq_decide.mpr (by omega)

/-- A field at bit 0 is its value. -/
theorem fieldAt_zero_toNat {n : Nat} (v : BitVec n) (hn : n ≤ 32) : (fieldAt 0 v).toNat = v.toNat := by
  simp [fieldAt, BitVec.toNat_setWidth_of_le hn]

/-- A field at bit 0 leaves the bits from its width on 0. -/
theorem fieldAt_zero_and_high {n : Nat} (v : BitVec n) (hn : n ≤ 32) :
    fieldAt 0 v &&& (BitVec.allOnes 32 <<< n) = 0 := by
  refine BitVec.eq_of_getLsbD_eq fun k hk => ?_
  rw [BitVec.getLsbD_and, getLsbD_fieldAt (by omega), BitVec.getLsbD_shiftLeft]
  by_cases hkn : k < n
  · simp [hkn]
  · simp [BitVec.getLsbD_of_ge v k (by omega)]

/-! ### The words of a node slot (R43) -/

theorem Node.getLsbD_word_zero (n : Node) (k : Nat) :
    (n.word 0).getLsbD k = (decide (k = 0) && n.valid || decide (k = 1) && n.leaf || decide (k = 2) && n.side ||
      decide (8 ≤ k) && n.sym.getLsbD (k - 8) || decide (16 ≤ k) && n.minSym.getLsbD (k - 16)) := by
  simp only [Node.word, BitVec.getLsbD_or]
  rw [getLsbD_flagAt, getLsbD_flagAt, getLsbD_flagAt, getLsbD_fieldAt, getLsbD_fieldAt] <;> omega

/-- Above the three flags word 0 holds the two symbols. -/
theorem Node.getLsbD_word_zero_of_ge (n : Node) {k : Nat} (h : 3 ≤ k) :
    (n.word 0).getLsbD k =
      (decide (8 ≤ k) && n.sym.getLsbD (k - 8) || decide (16 ≤ k) && n.minSym.getLsbD (k - 16)) := by
  rw [n.getLsbD_word_zero]
  simp [show k ≠ 0 by omega, show k ≠ 1 by omega, show k ≠ 2 by omega]

theorem Node.word_zero_sym (n : Node) : (n.word 0).extractLsb' 8 8 = n.sym := by
  refine BitVec.eq_of_getLsbD_eq fun k hk => ?_
  rw [BitVec.getLsbD_extractLsb', n.getLsbD_word_zero_of_ge (by omega)]
  simp [hk, show ¬ 16 ≤ 8 + k by omega]

theorem Node.word_zero_minSym (n : Node) : (n.word 0).extractLsb' 16 8 = n.minSym := by
  refine BitVec.eq_of_getLsbD_eq fun k hk => ?_
  rw [BitVec.getLsbD_extractLsb', n.getLsbD_word_zero_of_ge (by omega),
    BitVec.getLsbD_of_ge n.sym (16 + k - 8) (by omega)]
  simp [hk]

/-- Bits 7:3 and 31:24 of word 0 belong to no field. -/
theorem Node.word_zero_reserved (n : Node) : n.word 0 &&& 0xFF0000F8 = 0 := by
  have hmask : ∀ k < 32, (0xFF0000F8 : Word).getLsbD k = decide (3 ≤ k ∧ k < 8 ∨ 24 ≤ k) := by decide
  refine BitVec.eq_of_getLsbD_eq fun k hk => ?_
  rw [BitVec.getLsbD_and, hmask k hk]
  by_cases hr : 3 ≤ k ∧ k < 8 ∨ 24 ≤ k
  · rw [n.getLsbD_word_zero_of_ge (by omega)]
    rcases hr with ⟨-, h8⟩ | h24
    · simp [show ¬ 8 ≤ k by omega, show ¬ 16 ≤ k by omega]
    · simp [BitVec.getLsbD_of_ge n.sym (k - 8) (by omega), BitVec.getLsbD_of_ge n.minSym (k - 16) (by omega)]
  · simp [hr]

/-- Words 4 and 5 hold the weight, low part first. -/
theorem Node.word_weight (n : Node) : (n.word 5).toNat * 2 ^ 32 + (n.word 4).toNat = n.w.toNat := by
  have h5 : (n.word 5).toNat = n.w.toNat / 2 ^ 32 % 2 ^ 8 := by
    rw [Node.word, fieldAt_zero_toNat _ (by omega), BitVec.extractLsb'_toNat, Nat.shiftRight_eq_div_pow]
  have h4 : (n.word 4).toNat = n.w.toNat % 2 ^ 32 := by
    rw [Node.word, BitVec.extractLsb'_toNat, Nat.shiftRight_zero]
  rw [h5, h4]
  omega

theorem Node.word_empty (w : Fin 8) : Node.empty.word w.val = 0 := by
  revert w
  decide

theorem SlotsOk.eq_empty {c : Core} (h : SlotsOk c) {i : Fin 511} (hv : c.node[i].valid = false) :
    c.node[i] = Node.empty := by
  have hi := List.all_eq_true.mp h c.node[i] (by simp)
  rw [hv, Bool.false_or] at hi
  exact eq_of_beq hi

/-- Settles O32: the bits of each word are those of its fields, and an invalid slot is the empty one. -/
theorem nodeWordLayout : Obligations.NodeWordLayout := by
  unfold Obligations.NodeWordLayout
  refine ⟨fun n => ⟨⟨?_, ?_, ?_, n.word_zero_sym, n.word_zero_minSym, n.word_zero_reserved⟩,
    fieldAt_zero_toNat n.parent (by omega), fieldAt_zero_toNat n.c0 (by omega), fieldAt_zero_toNat n.c1 (by omega),
    n.word_weight, (fieldAt_zero_toNat (n.w.extractLsb' 32 8) (by omega)).trans_lt (BitVec.isLt _), rfl, rfl,
    fieldAt_zero_and_high n.parent (by omega), fieldAt_zero_and_high n.c0 (by omega),
    fieldAt_zero_and_high n.c1 (by omega)⟩, fun s i w => ⟨rfl, Reg.node_offset_toNat i w⟩, fun s i w hs hv => ?_⟩
  · exact (n.getLsbD_word_zero 0).trans (by simp)
  · exact (n.getLsbD_word_zero 1).trans (by simp)
  · exact (n.getLsbD_word_zero 2).trans (by simp)
  · change s.core.node[i].word w.val = 0
    rw [hs.eq_empty hv, Node.word_empty]

end Sys2Proof.Machine

/-! ## Malformed words, and what the core does with one (R61, R63, R67) -/

namespace Sys2Proof

/-! ### The fields of a word as numbers (R61) -/

theorem opcField_toNat (w : Word) : (opcField w).toNat = w.toNat % 256 := by
  rw [opcField, BitVec.extractLsb'_toNat, Nat.shiftRight_zero]

theorem opdField_toNat (w : Word) : (opdField w).toNat = w.toNat / 256 % 256 := by
  rw [opdField, BitVec.extractLsb'_toNat, Nat.shiftRight_eq_div_pow]

theorem mbzField_eq_zero_iff (w : Word) : mbzField w = 0 ↔ w.toNat / 65536 = 0 := by
  have hlt : w.toNat / 65536 < 2 ^ 16 := by have := w.isLt; omega
  rw [← BitVec.toNat_inj, mbzField, BitVec.extractLsb'_toNat, Nat.shiftRight_eq_div_pow, Nat.mod_eq_of_lt hlt]
  rfl

/-! ### When the decoder answers "malformed" (R63, R67) -/

theorem decodePlain_malformed_iff (opd : Byte) (i : Instr) :
    (∃ why, decodePlain opd i = .malformed why) ↔ opd.toNat ≠ 0 := by
  have hz : opd.toNat = 0 ↔ opd = 0 := BitVec.toNat_inj (y := 0)
  rw [Ne, hz]
  by_cases h : opd = 0
  · rw [decodePlain, if_pos h]
    simp [h]
  · exact iff_of_true ⟨_, if_neg h⟩ h

theorem decodeCount_malformed_iff (n : Byte) (i : Instr) :
    (∃ why, decodeCount n i = .malformed why) ↔ n.toNat = 0 ∨ 32 < n.toNat := by
  by_cases h : 1 ≤ n.toNat ∧ n.toNat ≤ 32
  · rw [decodeCount, if_pos h]
    simp only [reduceCtorEq, exists_false, false_iff]
    omega
  · exact iff_of_true ⟨_, if_neg h⟩ (by omega)

/-- By the rows of the opcode map: the two counts, the symbol of `ENC_SYM`, no row, and the rows without operand. -/
theorem decodeOpc_malformed_iff (opc opd : Byte) :
    (∃ why, decodeOpc opc opd = .malformed why) ↔
      opc.toNat ∉ [0x00, 0x01, 0x10, 0x11, 0x20, 0x21, 0x30, 0x31, 0x32, 0x33, 0x34, 0x35, 0x36,
        0x40, 0x41, 0x42, 0x43, 0x44, 0x50, 0x51] ∨
      (opc.toNat ∉ [0x31, 0x33, 0x41] ∧ opd.toNat ≠ 0) ∨
      (opc.toNat ∈ [0x31, 0x41] ∧ (opd.toNat = 0 ∨ 32 < opd.toNat)) := by
  unfold decodeOpc
  split
  case h_8 h | h_15 h => rw [decodeCount_malformed_iff]; simp [h]
  case h_10 h => simp [h]
  case h_21 => simp_all
  all_goals
    next h => rw [decodePlain_malformed_iff]; simp [h]

theorem decode_malformed_iff (w : Word) :
    (∃ why, decode w = .malformed why) ↔
      mbzField w ≠ 0 ∨ ∃ why, decodeOpc (opcField w) (opdField w) = .malformed why := by
  by_cases h : mbzField w = 0
  · rw [or_iff_right (not_ne_iff.mpr h), decode, if_pos h]
  · exact iff_of_true ⟨_, if_neg h⟩ (.inl h)

end Sys2Proof

namespace Sys2Proof.Machine

theorem raise_failed (e : ErrKind) (s : State) : Failed e s (raise e s) := rfl

theorem coreStep_malformed {s : State} {why : Malformed} (h : decode s.pending = .malformed why) :
    coreStep s = .next (raise .invalidArgument s) := by
  rw [coreStep, h]

/-- Settles O4: the decoder's tests read as numbers, and the raise of a malformed word. -/
theorem malformedWords : Obligations.MalformedWords := by
  unfold Obligations.MalformedWords
  refine ⟨fun w => ?_, fun s why h => ⟨_, coreStep_malformed h, raise_failed _ s, rfl⟩⟩
  rw [decode_malformed_iff, decodeOpc_malformed_iff, opcField_toNat, opdField_toNat, Ne, mbzField_eq_zero_iff]

end Sys2Proof.Machine

/-! ## Acceptance and completion of a command (R72, R74, R76) -/

namespace Sys2Proof

/-! ### The opcode of a decoded word (R61, R64) -/

/-- The opcode of a word as R72 writes it into `LAST_OPC`. -/
theorem opcField_eq_ofNat (w : Word) : opcField w = BitVec.ofNat 8 (w.toNat % 256) := by
  rw [← opcField_toNat, BitVec.ofNat_toNat, BitVec.setWidth_eq]

theorem decodePlain_instr {opd : Byte} {i j : Instr} (h : decodePlain opd i = .instr j) : j = i := by
  unfold decodePlain at h
  split at h <;> cases h
  rfl

theorem decodeCount_instr {n : Byte} {i j : Instr} (h : decodeCount n i = .instr j) : j = i := by
  unfold decodeCount at h
  split at h <;> cases h
  rfl

/-- By the rows of the opcode map: the two counts, the symbol of `ENC_SYM`, no row, and the rows without operand. -/
theorem decodeOpc_opc {opc opd : Byte} {i : Instr} (h : decodeOpc opc opd = .instr i) : i.opc = opc := by
  apply BitVec.eq_of_toNat_eq
  unfold decodeOpc at h
  split at h
  case h_8 hr | h_15 hr => rw [decodeCount_instr h, hr]; rfl
  case h_10 hr => cases h; exact hr.symm
  case h_21 => cases h
  all_goals
    next hr => rw [decodePlain_instr h, hr]; rfl

theorem decode_opc {w : Word} {i : Instr} (h : decode w = .instr i) : i.opc = opcField w := by
  unfold decode at h
  split at h
  · exact decodeOpc_opc h
  · cases h

end Sys2Proof

namespace Sys2Proof.Machine

/-! ### How an executed command ends (R74) -/

/-- t is s after the execution of a command word with this opcode, as R74 and R152 see it. -/
structure Ended (opc : Byte) (s t : State) : Prop where
  busy : t.busy = false
  pending : t.pending = 0
  done : t.done = true
  lastOpc : s.lastOpc = opc → t.lastOpc = opc
  ie : t.ie = s.ie

theorem Ended.irq {opc : Byte} {s t : State} (h : Ended opc s t) : irq t = s.ie := by
  rw [Machine.irq, h.done, h.ie, Bool.and_true]

theorem complete_ended (opc : Byte) (s : State) (w : Work) : Ended opc s (complete (s.setWork w)) :=
  ⟨rfl, rfl, rfl, id, rfl⟩

theorem raise_ended (opc : Byte) (e : ErrKind) (s : State) (w : Work) : Ended opc s (raise e (s.setWork w)) :=
  ⟨rfl, rfl, rfl, id, rfl⟩

theorem checked_ended {needsIn needsOut prereq : Bool} {body : Work → Res Unit} {s t : State} (opc : Byte)
    (h : checked needsIn needsOut prereq body s = .next t) : Ended opc s t := by
  rcases checked_cases needsIn needsOut prereq body s with ⟨-, k⟩ | ⟨-, -, -, k⟩ | ⟨-, -, -, k⟩ <;> rw [k] at h
  · cases h; exact raise_ended opc _ s s.work
  · cases h; exact raise_ended opc _ s s.work
  · rcases settle_eq_next.mp h with ⟨w, -, rfl⟩ | ⟨e, w, -, rfl⟩
    · exact complete_ended opc s w
    · exact raise_ended opc e s w

theorem checkedCount_ended {needsIn needsOut prereq : Bool} {body : Work → Res Unit} {s t : State} {n : Byte}
    (opc : Byte) (h : checkedCount n (checked needsIn needsOut prereq body) s = .next t) : Ended opc s t := by
  cases hn : countLegal n with
  | true => exact checked_ended opc (by simpa [hn] using h)
  | false => rw [checkedCount_illegal hn] at h; cases h; exact raise_ended opc _ s s.work

/-- R74: `NOP` is only the completion, `SOFT_RESET` writes its own opcode, and every other command is checked. -/
theorem exec_ended {i : Instr} {s t : State} (h : exec i s = .next t) : Ended i.opc s t := by
  cases i with
  | nop => cases h; exact complete_ended _ s s.work
  | softReset => cases h; exact ⟨rfl, rfl, rfl, fun _ => rfl, rfl⟩
  | pushBits n | pullBits n => exact checkedCount_ended _ h
  | _ => rw [exec] at h; exact checked_ended _ h

/-- R74 for the core's step: a decoded word holds its command's opcode, and a malformed word raises. -/
theorem coreStep_ended {s t : State} (h : coreStep s = .next t) : Ended (opcField s.pending) s t := by
  cases hd : decode s.pending with
  | instr i =>
    rw [coreStep, hd] at h
    exact decode_opc hd ▸ exec_ended h
  | malformed why =>
    rw [coreStep_malformed hd] at h
    cases h
    exact raise_ended _ _ s s.work

/-- Settles O11: every arm of `exec` ends by `complete`, as the raise of a malformed word does. -/
theorem everyCommandCompletes : Obligations.EveryCommandCompletes := by
  unfold Obligations.EveryCommandCompletes
  constructor
  · intro i s t h
    have k := exec_ended h
    exact ⟨k.busy, k.pending, k.done, k.lastOpc, k.ie, k.irq⟩
  · intro s t h
    have k := coreStep_ended h
    exact ⟨k.busy, k.pending, k.done, fun ho => (k.lastOpc ho).trans ho.symm, k.ie, k.irq⟩

/-! ### A write to `CMD` (R71, R72) -/

theorem regWrite_cmd (w : Word) (s : State) : regWrite 0x0008 4 w s = issue w s := rfl

theorem issue_accepted {w : Word} {s : State} (hb : s.busy = false)
    (h : s.err = false ∨ w = 0x00000000 ∨ w = 0x00000001) : issue w s = accept w s := by
  rcases issue_cases w s with ⟨-, -, k⟩ | ⟨hb' | ⟨he, h0, h1⟩, -⟩
  · exact k
  · simp [hb] at hb'
  · simp_all

theorem issue_dropped {w : Word} {s : State}
    (h : s.busy = true ∨ (s.err = true ∧ w ≠ 0x00000000 ∧ w ≠ 0x00000001)) :
    issue w s = { s with cmdLost := true } := by
  rcases issue_cases w s with ⟨hb, ha, -⟩ | ⟨-, k⟩
  · rcases h with hb' | ⟨he, h0, h1⟩
    · simp [hb] at hb'
    · simp_all
  · exact k

/-- Settles O10: `issue` takes the word or drops it, and what it takes goes into `LAST_OPC` with its opcode. -/
theorem commandAcceptance : Obligations.CommandAcceptance := by
  unfold Obligations.CommandAcceptance
  intro s w
  rw [regWrite_cmd]
  refine ⟨fun hb => issue_dropped (.inl hb), fun _ he h0 h1 => issue_dropped (.inr ⟨he, h0, h1⟩), fun hb h => ?_⟩
  rw [issue_accepted hb h, ← opcField_eq_ofNat]
  rfl

/-! ### `NOP` (R76) -/

/-- A word with opcode 0 that is not the word of `NOP` has a bit set above its opcode. -/
theorem decode_malformed_of_opc_zero {w : Word} (h : w.toNat % 256 = 0) (h0 : w ≠ 0) :
    ∃ why, decode w = .malformed why := by
  have hn : w.toNat ≠ 0 := fun k => h0 (BitVec.eq_of_toNat_eq k)
  rw [malformedWords.1, h]
  by_cases hm : w.toNat / 65536 = 0
  · exact .inr (.inr (.inl ⟨by decide, by omega⟩))
  · exact .inl hm

/-- With the core state at its reset value `STATUS` holds its stored fields alone: every mirror is 0 (R21, R35). -/
theorem statusWord_of_core_zero {s : State} (h : s.core = Core.zero) :
    statusWord s = flagAt 0 s.busy ||| flagAt 1 s.done ||| flagAt 2 s.err ||| flagAt 3 s.cmdLost |||
      fieldAt 4 s.errcode ||| fieldAt 16 s.lastOpc := by
  have hmirrors : flagAt 8 Core.zero.treeV = 0 ∧ flagAt 9 Core.zero.treeSrc = 0 ∧ flagAt 10 Core.zero.codesV = 0 ∧
      flagAt 11 Core.zero.hdrOk = 0 ∧ flagAt 12 Core.zero.rbEnd = 0 := ⟨rfl, rfl, rfl, rfl, rfl⟩
  obtain ⟨h8, h9, h10, h11, h12⟩ := hmirrors
  simp [statusWord, h, h8, h9, h10, h11, h12]

/-- Settles O7: `NOP` is `complete`, in the FAILED state too, and no other word with its opcode decodes. -/
theorem nopOnlyCompletes : Obligations.NopOnlyCompletes := by
  unfold Obligations.NopOnlyCompletes
  refine ⟨by decide, fun s => ⟨_, rfl, rfl, rfl, rfl⟩, fun s hb _ => issue_accepted hb (.inr (.inl rfl)),
    fun s h h0 => ?_, fun s w _ he h h0 => ?_, fun l x p => ⟨_, rfl, ?_⟩⟩
  · obtain ⟨why, hd⟩ := decode_malformed_of_opc_zero h h0
    exact ⟨_, coreStep_malformed hd, raise_failed _ s⟩
  · have h1 : w ≠ 0x00000001 := by rintro rfl; simp at h
    exact issue_dropped (.inr ⟨he, h0, h1⟩)
  · rw [statusWord_of_core_zero rfl]
    simp [State.launched, flagAt, fieldAt]

end Sys2Proof.Machine

/-! ## The frequency table (R81, R82) -/

namespace Sys2Proof.Machine

/-- Settles O34: `FREQ_CLEAR` is a checked command with no port and no prerequisite, whose body writes the counts
alone. -/
theorem freqClearZeroes : Obligations.FreqClearZeroes := by
  unfold Obligations.FreqClearZeroes
  refine ⟨by decide, fun s => ?_⟩
  have hexec : exec .freqClear s = settle s (freqClear s.work) := by
    change checked false false true freqClear s = _
    exact checked_ready (by simp) (by simp) rfl
  exact ⟨_, hexec, fun i => by simp, rfl⟩

/-! ### Counting a run of bytes -/

theorem full_iff_toNat {v : Word} : v = 0xFFFFFFFF ↔ v.toNat = 2 ^ 32 - 1 := by
  bv_omega

/-- A byte whose count has room is counted: its count grows by 1, and the ports stay (R82). -/
theorem countByte_room {a : Byte} {w : Work} (h : w.core.freqOf a ≠ 0xFFFFFFFF) :
    ∃ u, countByte a w = .ok () u ∧ u.ports = w.ports ∧
      ∀ b : Byte, (u.core.freqOf b).toNat = (w.core.freqOf b).toNat + [a].count b := by
  refine ⟨w.setCore (w.core.setFreq a (w.core.freqOf a + 1)), if_neg h, rfl, fun b => ?_⟩
  rw [Work.setCore_core]
  by_cases hb : b = a
  · subst hb
    rw [freqOf_setFreq_same, List.count_singleton_self]
    bv_omega
  · rw [freqOf_setFreq_other _ _ hb, List.count_singleton, if_neg (by simpa using Ne.symm hb), Nat.add_zero]

/-- While no count passes its limit the loop takes the bytes ahead one by one: the input's position moves past them, and
each count grows by its byte's occurrences (R82). -/
theorem forBytes_counts (pre : List Byte) {post : List Byte} {w : Work}
    (hin : w.ports.inData.drop w.ports.inPos = pre ++ post)
    (hfit : ∀ b : Byte, (w.core.freqOf b).toNat + pre.count b < 2 ^ 32) :
    ∃ v, (∀ k, forBytes countByte (pre.length + k) w = forBytes countByte k v) ∧
      v.ports = { w.ports with inPos := w.ports.inPos + pre.length } ∧
      ∀ b : Byte, (v.core.freqOf b).toNat = (w.core.freqOf b).toNat + pre.count b := by
  induction pre generalizing w with
  | nil => exact ⟨w, fun k => by simp, by simp, by simp⟩
  | cons a pre ih =>
    have hsplit (b : Byte) : (a :: pre).count b = [a].count b + pre.count b := List.count_append (l₁ := [a])
    have hat : w.ports.inData[w.ports.inPos]? = some a := by simp [← List.head?_drop, hin]
    have hroom : w.core.freqOf a ≠ 0xFFFFFFFF := by
      have := hfit a
      rw [List.count_cons_self] at this
      rw [Ne, full_iff_toNat]
      omega
    obtain ⟨u, hu, huports, hufreq⟩ :=
      countByte_room (w := w.setPorts { w.ports with inPos := w.ports.inPos + 1 }) hroom
    simp only [Work.setPorts_core, Work.setPorts_ports] at huports hufreq
    obtain ⟨v, hrun, hports, hfreq⟩ := ih (w := u) (by simp [huports, ← List.drop_drop, hin]) fun b => by
      rw [hufreq, Nat.add_assoc, ← hsplit]
      exact hfit b
    refine ⟨v, fun k => ?_, ?_, fun b => ?_⟩
    · rw [List.length_cons, Nat.add_right_comm, forBytes_byte hat, hu, Res.bind_ok, hrun]
    · simp [hports, huports, Nat.add_assoc, Nat.add_comm 1]
    · rw [hfreq, hufreq, Nat.add_assoc, ← hsplit]

/-- With room for every byte ahead the body counts them all (R82). -/
theorem freqCount_ok {w : Work} (hpos : w.ports.inPos ≤ w.ports.inData.length)
    (hfit : ∀ b : Byte, (w.core.freqOf b).toNat + (w.ports.inData.drop w.ports.inPos).count b < 2 ^ 32) :
    ∃ v, freqCount w = .ok () v ∧ v.ports = { w.ports with inPos := w.ports.inData.length } ∧
      ∀ b : Byte, (v.core.freqOf b).toNat =
        (w.core.freqOf b).toNat + (w.ports.inData.drop w.ports.inPos).count b := by
  obtain ⟨v, hrun, hports, hfreq⟩ := forBytes_counts (w := closeReader w) (post := []) _ (by simp) hfit
  simp only [closeReader_ports, List.length_drop, Nat.add_sub_cancel' hpos] at hrun hports
  refine ⟨v, ?_, hports, hfreq⟩
  change forBytes countByte (w.ports.inData.length - w.ports.inPos + 1) (closeReader w) = _
  rw [hrun 1, forBytes_eos (by simp [hports])]

/-- At a byte whose count is full the body stops, that byte taken (R82). -/
theorem freqCount_overflow {w : Work} {pre post : List Byte} {b : Byte}
    (hin : w.ports.inData.drop w.ports.inPos = pre ++ b :: post)
    (hfit : ∀ c : Byte, (w.core.freqOf c).toNat + pre.count c < 2 ^ 32)
    (hfull : (w.core.freqOf b).toNat + pre.count b = 2 ^ 32 - 1) :
    ∃ v, freqCount w = .raised .countOverflow v ∧
      v.ports = { w.ports with inPos := w.ports.inPos + pre.length + 1 } := by
  obtain ⟨v, hrun, hports, hfreq⟩ := forBytes_counts (w := closeReader w) pre hin hfit
  have hlen : w.ports.bytesLeft + 1 = pre.length + (post.length + 1 + 1) := by
    rw [Ports.bytesLeft, ← List.length_drop, hin]
    simp only [List.length_append, List.length_cons]
    omega
  have hat : v.ports.inData[v.ports.inPos]? = some b := by
    rw [hports]
    simp [← List.getElem?_drop, hin]
  have hvfull : v.core.freqOf b = 0xFFFFFFFF := full_iff_toNat.mpr ((hfreq b).trans hfull)
  refine ⟨v.setPorts { v.ports with inPos := v.ports.inPos + 1 }, ?_, by simp [hports]⟩
  change forBytes countByte (w.ports.bytesLeft + 1) (closeReader w) = _
  rw [hlen, hrun, forBytes_byte hat, countByte, if_pos (by exact hvfull), Res.bind_raised]

/-- Settles O35: the loop counts the bytes ahead as far as the counts have room; then it meets the end of the input, or a
byte whose count is full. -/
theorem freqCountAddsInput : Obligations.FreqCountAddsInput := by
  unfold Obligations.FreqCountAddsInput
  have hready {s : State} (hi : s.launch.inPresent = true) : exec .freqCount s = settle s (freqCount s.work) :=
    checked_ready (fun _ => hi) (by simp) rfl
  refine ⟨by decide, fun s hi hpos hfit => ?_, fun s pre b post hi hin hfit hfull => ?_, fun s hi => ?_⟩
  · obtain ⟨v, hv, hports, hfreq⟩ := freqCount_ok (w := s.work) hpos hfit
    exact ⟨complete (s.setWork v), by rw [hready hi, hv]; rfl, rfl, freqCount_frame hv, hports, hfreq⟩
  · obtain ⟨v, hv, hports⟩ := freqCount_overflow (w := s.work) hin hfit hfull
    refine ⟨raise .countOverflow (s.setWork v), by rw [hready hi, hv]; rfl, rfl, ?_⟩
    simp [hports]
  · refine ⟨raise .invalidArgument s, ?_, raise_failed _ s⟩
    change checked true false true freqCount s = _
    simp [checked, hi]

end Sys2Proof.Machine

/-! ## The tree of `BUILD_TREE` and its weights (R83, R84, R86, R87) -/

namespace Sys2Proof.Machine

/-! ### The tree under a slot -/

theorem Tree.leaves_pos (t : Tree) : 0 < t.leaves := by
  rw [t.leaves_eq]
  omega

theorem treeAt_leaf {c : Core} {i : Slot} (d : Nat) (hn : i ≠ Config.nullSlot) (hl : (c.nodeAt i).leaf = true) :
    c.treeAt (d + 1) i = some (.leaf (c.nodeAt i).sym) := by
  rw [Core.treeAt, if_neg hn, if_pos hl]

theorem treeAt_inner {c : Core} {i : Slot} {d : Nat} {z o : Tree} (hn : i ≠ Config.nullSlot)
    (hl : (c.nodeAt i).leaf = false) (hz : c.treeAt d (c.nodeAt i).c0 = some z)
    (ho : c.treeAt d (c.nodeAt i).c1 = some o) : c.treeAt (d + 1) i = some (.node z o) := by
  rw [Core.treeAt, if_neg hn, if_neg (by simp [hl]), hz, ho]

/-- What a tree under a slot says of the slot: it holds a leaf, or an internal node over the two subtrees. -/
theorem treeAt_succ_cases {c : Core} {i : Slot} {d : Nat} {t : Tree} (h : c.treeAt (d + 1) i = some t) :
    i ≠ Config.nullSlot ∧
      (((c.nodeAt i).leaf = true ∧ t = .leaf (c.nodeAt i).sym) ∨
        ∃ z o, (c.nodeAt i).leaf = false ∧ c.treeAt d (c.nodeAt i).c0 = some z ∧
          c.treeAt d (c.nodeAt i).c1 = some o ∧ t = .node z o) := by
  rw [Core.treeAt] at h
  split at h
  · cases h
  · refine ⟨‹_›, ?_⟩
    split at h
    · cases h
      exact .inl ⟨‹_›, rfl⟩
    · split at h
      · cases h
        exact .inr ⟨_, _, by simpa using ‹¬ (c.nodeAt i).leaf = true›, ‹_›, ‹_›, rfl⟩
      · cases h

/-- More levels find the same tree. -/
theorem treeAt_mono {c : Core} {d e : Nat} {i : Slot} {t : Tree} (h : c.treeAt d i = some t) (hde : d ≤ e) :
    c.treeAt e i = some t := by
  induction d generalizing e i t with
  | zero => cases h
  | succ d ih =>
    obtain ⟨e, rfl⟩ : ∃ k, e = k + 1 := ⟨e - 1, by omega⟩
    rcases treeAt_succ_cases h with ⟨hn, ⟨hl, rfl⟩ | ⟨z, o, hl, hz, ho, rfl⟩⟩
    · exact treeAt_leaf e hn hl
    · exact treeAt_inner hn hl (ih hz (by omega)) (ih ho (by omega))

theorem nodeAt_of_node_eq {c d : Core} (hn : d.node = c.node) (i : Slot) : d.nodeAt i = c.nodeAt i := by
  rw [Core.nodeAt, Core.nodeAt, hn]

theorem treeAt_of_node_eq {c d : Core} (hn : d.node = c.node) (n : Nat) (i : Slot) : d.treeAt n i = c.treeAt n i := by
  induction n generalizing i with
  | zero => rfl
  | succ n ih => rw [Core.treeAt, Core.treeAt, nodeAt_of_node_eq hn, ih, ih]

/-- A merge leaves the tree under every node that was there before it. -/
theorem Grove.treeAt_mergeInto {syms : List Byte} {k d : Nat} {c : Core} {a b p i : Slot} {t : Tree}
    (h : Grove syms k c) (hp : (c.nodeAt p).valid = false) (hi : (c.nodeAt i).valid = true)
    (ht : c.treeAt d i = some t) : (mergeInto c p a b).treeAt d i = some t := by
  induction d generalizing i t with
  | zero => cases ht
  | succ d ih =>
    obtain ⟨q, sd, e⟩ := mergeInto_nodeAt a b (ne_of_valid_of_free hp hi)
    rcases treeAt_succ_cases ht with ⟨hn, ⟨hl, rfl⟩ | ⟨z, o, hl, hz, ho, rfl⟩⟩
    · rw [treeAt_leaf d hn (by rw [e]; exact hl), e]
    · obtain ⟨v0, v1, -⟩ := h.children i hi hl
      exact treeAt_inner hn (by rw [e]; exact hl) (by rw [e]; exact ih v0 hz) (by rw [e]; exact ih v1 ho)

/-! ### The key order (R83) -/

/-- Entry a comes before entry b, and their minimum symbols differ, as those of any two subtrees do. -/
abbrev Precedes (a b : Entry) : Prop := a.before b = true ∧ a.minSym ≠ b.minSym

theorem before_iff {a b : Entry} :
    a.before b = true ↔ a.weight < b.weight ∨ (a.weight = b.weight ∧ a.minSym < b.minSym) := by
  simp [Entry.before]

theorem insertEntry_perm (e : Entry) (es : List Entry) : (insertEntry e es).Perm (e :: es) := by
  induction es with
  | nil => rfl
  | cons x xs ih =>
    rw [insertEntry]
    split
    · rfl
    · exact (ih.cons x).trans (.swap e x xs)

/-- An entry put in its place keeps the order (R84). -/
theorem insertEntry_sorted {e : Entry} {es : List Entry} (hs : es.Pairwise Precedes)
    (he : ∀ x ∈ es, e.minSym ≠ x.minSym) : (insertEntry e es).Pairwise Precedes := by
  induction es with
  | nil => simp [insertEntry]
  | cons x xs ih =>
    obtain ⟨hx, hxs⟩ := List.pairwise_cons.mp hs
    have hex := he x List.mem_cons_self
    rw [insertEntry]
    split
    · rename_i hb
      refine List.pairwise_cons.mpr ⟨fun y hy => ⟨?_, he y hy⟩, hs⟩
      rcases List.mem_cons.mp hy with rfl | hy
      · exact hb
      · have hxy := (hx y hy).1
        rw [before_iff] at hb hxy ⊢
        omega
    · rename_i hb
      refine List.pairwise_cons.mpr ⟨fun y hy => ?_, ih hxs fun y hy => he y (List.mem_cons_of_mem _ hy)⟩
      rcases List.mem_cons.mp ((insertEntry_perm e xs).mem_iff.mp hy) with rfl | hy
      · refine ⟨?_, hex.symm⟩
        rw [before_iff] at hb ⊢
        omega
      · exact hx y hy

theorem sortsBefore_iff {c : Core} {i j : Slot} : sortsBefore c i j = true ↔
    (c.nodeAt i).w.toNat < (c.nodeAt j).w.toNat ∨
      ((c.nodeAt i).w.toNat = (c.nodeAt j).w.toNat ∧ (c.nodeAt i).minSym.toNat < (c.nodeAt j).minSym.toNat) := by
  simp [sortsBefore, BitVec.lt_def, ← BitVec.toNat_inj]

/-- The selection finds the slot that sorts before every other (R84). -/
theorem firstOf_eq {c : Core} {a i : Slot} {rest : List Slot} (hi : i ∈ a :: rest)
    (h : ∀ j ∈ a :: rest, j ≠ i → sortsBefore c i j = true) : firstOf c a rest = i := by
  have hasymm {j : Slot} (hj : sortsBefore c i j = true) : ¬ sortsBefore c j i = true := by
    rw [sortsBefore_iff] at hj ⊢
    omega
  unfold firstOf
  induction rest generalizing a with
  | nil => exact (List.mem_singleton.mp hi).symm
  | cons x xs ih =>
    rw [List.foldl_cons]
    split
    next hxa =>
      refine ih ?_ fun j hj => h j (List.mem_cons_of_mem _ hj)
      rcases List.mem_cons.mp hi with rfl | hi
      · by_cases hx : x = i
        · exact hx ▸ List.mem_cons_self
        · exact absurd hxa (hasymm (h x (by simp) hx))
      · exact hi
    next hxa =>
      refine ih ?_ fun j hj => h j (List.cons_subset_cons a (List.subset_cons_self x xs) hj)
      rcases List.mem_cons.mp hi with rfl | hi
      · exact List.mem_cons_self
      · rcases List.mem_cons.mp hi with rfl | hi
        · by_cases ha : a = i
          · exact ha ▸ List.mem_cons_self
          · exact absurd (h a List.mem_cons_self ha) hxa
        · exact List.mem_cons_of_mem _ hi

/-! ### The worklist and its entries -/

/-- Slot i holds entry e: its key stands in the node, and its tree under it. -/
structure Holds (c : Core) (i : Slot) (e : Entry) : Prop where
  valid : (c.nodeAt i).valid = true
  weight : (c.nodeAt i).w.toNat = e.weight
  minSym : (c.nodeAt i).minSym.toNat = e.minSym
  tree : c.treeAt e.tree.leaves i = some e.tree

theorem Holds.of_node_eq {c d : Core} {i : Slot} {e : Entry} (h : Holds c i e) (hn : d.node = c.node) : Holds d i e := by
  have hnode := nodeAt_of_node_eq hn i
  exact ⟨by rw [hnode, h.valid], by rw [hnode, h.weight], by rw [hnode, h.minSym], by rw [treeAt_of_node_eq hn, h.tree]⟩

theorem Holds.sortsBefore_iff {c : Core} {i j : Slot} {e f : Entry} (hi : Holds c i e) (hj : Holds c j f) :
    sortsBefore c i j = true ↔ e.before f = true := by
  rw [Machine.sortsBefore_iff, before_iff, hi.weight, hi.minSym, hj.weight, hj.minSym]

/-- The entry of a symbol's leaf (R84). -/
def leafEntry (count : Byte → Nat) (b : Byte) : Entry := { weight := count b, minSym := b.toNat, tree := .leaf b }

theorem holds_leaf {syms : List Byte} {c : Core} {b : Byte} (h : b ∈ syms) :
    Holds (syms.foldl placeLeaf c.clearNodes) (leafSlot b) (leafEntry (fun b => (c.freqOf b).toNat) b) := by
  have e := placeLeaves_nodeAt_leafSlot (c := c.clearNodes) h
  refine ⟨by rw [e]; rfl, ?_, by rw [e]; rfl, ?_⟩
  · rw [e]
    exact BitVec.toNat_setWidth_of_le (by omega)
  · exact (treeAt_leaf 0 (leafSlot_ne_null b) (by rw [e]; rfl)).trans (by rw [e]; rfl)

section Merge

variable {syms : List Byte} {k : Nat} {c : Core} {a b p i : Slot} {e f : Entry}

theorem Grove.holds_mergeInto (h : Grove syms k c) (hp : (c.nodeAt p).valid = false) (he : Holds c i e) :
    Holds (mergeInto c p a b) i e := by
  obtain ⟨q, sd, hnode⟩ := mergeInto_nodeAt a b (ne_of_valid_of_free hp he.valid)
  exact ⟨mergeInto_valid hp he.valid, by rw [hnode]; exact he.weight, by rw [hnode]; exact he.minSym,
    h.treeAt_mergeInto hp he.valid he.tree⟩

theorem mergedNode_weight (ha : Holds c a e) (hb : Holds c b f) (hw : e.weight + f.weight < 2 ^ 40) :
    (mergedNode c a b).w.toNat = e.weight + f.weight := by
  rw [← ha.weight, ← hb.weight] at hw ⊢
  exact BitVec.toNat_add_of_lt hw

/-- Where two slots hold two entries, their parent holds the merged entry, if the sum of the weights fits (R84, R86). -/
theorem Grove.holds_parent (h : Grove syms k c) (hn : p ≠ Config.nullSlot) (hp : (c.nodeAt p).valid = false)
    (ha : Holds c a e) (hb : Holds c b f) (hw : e.weight + f.weight < 2 ^ 40) :
    Holds (mergeInto c p a b) p (mergeEntries e f) := by
  have hnew : (mergeInto c p a b).nodeAt p = mergedNode c a b :=
    mergeInto_nodeAt_parent hn (ne_of_valid_of_free hp ha.valid).symm (ne_of_valid_of_free hp hb.valid).symm
  have he := e.tree.leaves_pos
  have hf := f.tree.leaves_pos
  have hlevels : (mergeEntries e f).tree.leaves = e.tree.leaves + f.tree.leaves - 1 + 1 := by
    change e.tree.leaves + f.tree.leaves = _
    omega
  refine ⟨by rw [hnew]; rfl, by rw [hnew]; exact mergedNode_weight ha hb hw, ?_, ?_⟩
  · rw [hnew]
    change (if (c.nodeAt a).minSym ≤ (c.nodeAt b).minSym then _ else _ : Byte).toNat = min e.minSym f.minSym
    rw [← ha.minSym, ← hb.minSym, apply_ite BitVec.toNat]
    rfl
  · rw [hlevels]
    refine treeAt_inner hn (by rw [hnew]; rfl) ?_ ?_ <;> rw [hnew]
    · exact treeAt_mono (h.treeAt_mergeInto hp ha.valid ha.tree) (by omega)
    · exact treeAt_mono (h.treeAt_mergeInto hp hb.valid hb.tree) (by omega)

end Merge

/-- The slots of the worklist, in some order, hold the entries one by one. -/
def Lists (c : Core) (work : List Slot) (es : List Entry) : Prop :=
  ∃ is : List Slot, is.Perm work ∧ List.Forall₂ (Holds c) is es

section Lists

variable {c : Core} {work : List Slot} {es : List Entry} {e : Entry} {i : Slot}

theorem Lists.length_eq (h : Lists c work es) : work.length = es.length := by
  obtain ⟨is, hp, hs⟩ := h
  rw [← hp.length_eq, hs.length_eq]

theorem exists_entry_of_mem {is : List Slot} (h : List.Forall₂ (Holds c) is es) (hi : i ∈ is) :
    ∃ e ∈ es, Holds c i e := by
  induction h with
  | nil => cases hi
  | cons hx _ ih =>
    rcases List.mem_cons.mp hi with rfl | hi
    · exact ⟨_, List.mem_cons_self, hx⟩
    · obtain ⟨e, he, hie⟩ := ih hi
      exact ⟨e, List.mem_cons_of_mem _ he, hie⟩

/-- The selection finds the slot of the first entry; the slots left hold the entries left. -/
theorem Lists.first {x : Slot} {rest : List Slot} (h : Lists c (x :: rest) (e :: es))
    (hs : (e :: es).Pairwise Precedes) :
    Holds c (firstOf c x rest) e ∧ Lists c ((x :: rest).erase (firstOf c x rest)) es := by
  obtain ⟨is, hp, hh⟩ := h
  obtain ⟨i, is, hi, his, rfl⟩ := List.forall₂_cons_right_iff.mp hh
  have hfirst : firstOf c x rest = i := by
    refine firstOf_eq (hp.mem_iff.mp List.mem_cons_self) fun j hj hji => ?_
    have hjs : j ∈ is := (List.mem_cons.mp (hp.mem_iff.mpr hj)).resolve_left hji
    obtain ⟨g, hg, hjg⟩ := exists_entry_of_mem his hjs
    exact (hi.sortsBefore_iff hjg).mpr (List.rel_of_pairwise_cons hs hg).1
  rw [hfirst]
  exact ⟨hi, is, by simpa using hp.erase i, his⟩

/-- The selection, made twice, finds the slots of the first two entries (R84). -/
theorem Lists.firstTwo {x a b : Slot} {rest : List Slot} {f : Entry} (h : Lists c (x :: rest) (e :: f :: es))
    (hs : (e :: f :: es).Pairwise Precedes) (ha : a = firstOf c x rest)
    (hb : b = firstOf c (((x :: rest).erase a).headD Config.nullSlot) ((x :: rest).erase a).tail) :
    Holds c a e ∧ Holds c b f ∧ b ∈ (x :: rest).erase a ∧ Lists c (((x :: rest).erase a).erase b) es := by
  obtain ⟨hae, hleft⟩ := h.first hs
  rw [← ha] at hae hleft
  obtain ⟨y, ys, hys⟩ := List.exists_cons_of_length_eq_add_one hleft.length_eq
  rw [hys] at hb hleft ⊢
  obtain ⟨hbf, hrest⟩ := hleft.first hs.of_cons
  rw [hb]
  exact ⟨hae, hbf, firstOf_mem c y ys, hrest⟩

/-- Putting an entry in its place puts its slot in the same place. -/
theorem forall₂_insertEntry {is : List Slot} (hi : Holds c i e) (h : List.Forall₂ (Holds c) is es) :
    ∃ js : List Slot, js.Perm (i :: is) ∧ List.Forall₂ (Holds c) js (insertEntry e es) := by
  induction h with
  | nil => exact ⟨[i], .refl _, .cons hi .nil⟩
  | @cons j x is xs hx hs ih =>
    rw [insertEntry]
    split
    · exact ⟨i :: j :: is, .refl _, .cons hi (.cons hx hs)⟩
    · obtain ⟨js, hp, hjs⟩ := ih
      exact ⟨j :: js, (hp.cons j).trans (.swap i j is), .cons hx hjs⟩

/-- A new slot, put last in the worklist, goes with its entry put in its place. -/
theorem Lists.insert (h : Lists c work es) (hi : Holds c i e) : Lists c (work ++ [i]) (insertEntry e es) := by
  obtain ⟨is, hp, hs⟩ := h
  obtain ⟨js, hjs, hh⟩ := forall₂_insertEntry hi hs
  exact ⟨js, hjs.trans ((hp.cons i).trans (List.perm_append_singleton i work).symm), hh⟩

theorem Lists.mergeInto {syms : List Byte} {k : Nat} {a b p : Slot} (h : Lists c work es) (g : Grove syms k c)
    (hp : (c.nodeAt p).valid = false) : Lists (mergeInto c p a b) work es := by
  obtain ⟨is, hperm, hs⟩ := h
  exact ⟨is, hperm, hs.imp fun _ _ => g.holds_mergeInto hp⟩

end Lists

/-! ### Weights in the arena (R86) -/

/-- The weights in the arena: a leaf's is its symbol's count, an internal node's the sum of its children's, and none is
more than `total`. -/
structure Weighed (syms : List Byte) (count : Byte → Nat) (total : Nat) (c : Core) : Prop where
  leaf : ∀ b ∈ syms, (c.nodeAt (leafSlot b)).w.toNat = count b
  inner : ∀ i : Slot, (c.nodeAt i).valid = true → (c.nodeAt i).leaf = false →
    (c.nodeAt i).w.toNat = (c.nodeAt (c.nodeAt i).c0).w.toNat + (c.nodeAt (c.nodeAt i).c1).w.toNat
  bound : ∀ i : Slot, (c.nodeAt i).w.toNat ≤ total

theorem Weighed.of_node_eq {syms : List Byte} {count : Byte → Nat} {total : Nat} {c d : Core}
    (h : Weighed syms count total c) (hn : d.node = c.node) : Weighed syms count total d := by
  have hnode := nodeAt_of_node_eq hn
  exact ⟨by simpa only [hnode] using h.leaf, by simpa only [hnode] using h.inner, by simpa only [hnode] using h.bound⟩

theorem weighed_leaves {syms : List Byte} {c : Core} :
    Weighed syms (fun b => (c.freqOf b).toNat) (syms.map fun b => (c.freqOf b).toNat).sum
      (syms.foldl placeLeaf c.clearNodes) := by
  refine ⟨fun b hb => (holds_leaf hb).weight, fun i hv hl => ?_, fun i => ?_⟩
  · rw [placeLeaves_leaf hv] at hl
    cases hl
  · by_cases hi : ∃ b ∈ syms, leafSlot b = i
    · obtain ⟨b, hb, rfl⟩ := hi
      rw [(holds_leaf hb).weight]
      exact List.single_le_sum (by simp) _ (List.mem_map_of_mem hb)
    · rw [placeLeaves_nodeAt_other fun b hb k => hi ⟨b, hb, k.symm⟩, nodeAt_clearNodes]
      exact Nat.zero_le _

theorem mergeInto_weight {c : Core} {p i : Slot} (a b : Slot) (h : i ≠ p) :
    ((mergeInto c p a b).nodeAt i).w = (c.nodeAt i).w := by
  obtain ⟨q, sd, hnode⟩ := mergeInto_nodeAt a b h
  rw [hnode]

/-- A merge whose sum is at most `total` keeps the weights. -/
theorem Weighed.merge {syms : List Byte} {count : Byte → Nat} {total k : Nat} {c : Core} {a b p : Slot} {e f : Entry}
    (h : Weighed syms count total c) (g : Grove syms k c) (hn : p ≠ Config.nullSlot) (hp : (c.nodeAt p).valid = false)
    (ha : Holds c a e) (hb : Holds c b f) (hle : e.weight + f.weight ≤ total) (hfit : total < 2 ^ 40) :
    Weighed syms count total (mergeInto c p a b) := by
  have hap := ne_of_valid_of_free hp ha.valid
  have hbp := ne_of_valid_of_free hp hb.valid
  have hnew : (mergeInto c p a b).nodeAt p = mergedNode c a b := mergeInto_nodeAt_parent hn hap.symm hbp.symm
  have hweight := mergedNode_weight ha hb (hle.trans_lt hfit)
  refine ⟨fun x hx => ?_, fun i hv hl => ?_, fun i => ?_⟩
  · rw [mergeInto_weight a b (ne_of_valid_of_free hp ((g.leafValid x).mpr hx))]
    exact h.leaf x hx
  · by_cases hip : i = p
    · rw [hip, hnew, hweight, ← ha.weight, ← hb.weight, ← mergeInto_weight a b hap, ← mergeInto_weight a b hbp]
      rfl
    · obtain ⟨q, sd, hnode⟩ := mergeInto_nodeAt (c := c) a b hip
      rw [hnode] at hv hl ⊢
      obtain ⟨v0, v1, -⟩ := g.children i hv hl
      rw [mergeInto_weight a b (ne_of_valid_of_free hp v0), mergeInto_weight a b (ne_of_valid_of_free hp v1)]
      exact h.inner i hv hl
  · by_cases hip : i = p
    · rw [hip, hnew, hweight]
      exact hle
    · rw [mergeInto_weight a b hip]
      exact h.bound i

/-! ### The merges, in the arena and in the ordered list (R84, R87) -/

theorem sum_map_insertEntry (g : Entry → Nat) (e : Entry) (es : List Entry) :
    ((insertEntry e es).map g).sum = g e + (es.map g).sum := by
  rw [((insertEntry_perm e es).map g).sum_eq, List.map_cons, List.sum_cons]

/-- The arena's worklist after k merges and the list of entries in key order tell the same: slot by slot the same trees
and keys, and together all the leaves and all the counts. -/
structure Paired (syms : List Byte) (count : Byte → Nat) (k : Nat) (work : List Slot) (es : List Entry) (c : Core) :
    Prop where
  forest : Forest syms k work c
  lists : Lists c work es
  sorted : es.Pairwise Precedes
  weights : (es.map Entry.weight).sum = (syms.map count).sum
  leaves : (es.map fun e => e.tree.leaves).sum = syms.length
  weighed : Weighed syms count (syms.map count).sum c

/-- The merges are over: slot r holds the one entry left, with every symbol's leaf and the sum of all counts. -/
structure WholeTree (syms : List Byte) (count : Byte → Nat) (r : Slot) (e : Entry) (c : Core) : Prop where
  holds : Holds c r e
  leaves : e.tree.leaves = syms.length
  weight : e.weight = (syms.map count).sum
  weighed : Weighed syms count (syms.map count).sum c

theorem WholeTree.of_node_eq {syms : List Byte} {count : Byte → Nat} {r : Slot} {e : Entry} {c d : Core}
    (h : WholeTree syms count r e c) (hn : d.node = c.node) : WholeTree syms count r e d :=
  ⟨h.holds.of_node_eq hn, h.leaves, h.weight, h.weighed.of_node_eq hn⟩

/-- The ordered list that the merges start from (R84). -/
def leafEntries (count : Byte → Nat) (syms : List Byte) : List Entry :=
  syms.foldr (fun b es => insertEntry (leafEntry count b) es) []

theorem leafEntries_perm (count : Byte → Nat) (syms : List Byte) :
    (leafEntries count syms).Perm (syms.map (leafEntry count)) := by
  induction syms with
  | nil => rfl
  | cons b syms ih => exact (insertEntry_perm _ _).trans (ih.cons _)

theorem leafEntries_sorted {count : Byte → Nat} {syms : List Byte} (hs : syms.Nodup) :
    (leafEntries count syms).Pairwise Precedes := by
  induction syms with
  | nil => exact .nil
  | cons b syms ih =>
    obtain ⟨hb, hs⟩ := List.nodup_cons.mp hs
    refine insertEntry_sorted (ih hs) fun x hx => ?_
    obtain ⟨a, ha, rfl⟩ := List.mem_map.mp ((leafEntries_perm count syms).mem_iff.mp hx)
    exact fun h => hb (BitVec.eq_of_toNat_eq h ▸ ha)

theorem lists_leaves {c : Core} {count : Byte → Nat} {syms : List Byte}
    (h : ∀ b ∈ syms, Holds c (leafSlot b) (leafEntry count b)) :
    Lists c (syms.map leafSlot) (leafEntries count syms) := by
  induction syms with
  | nil => exact ⟨[], .refl _, .nil⟩
  | cons b syms ih =>
    obtain ⟨is, hp, hs⟩ := (ih fun a ha => h a (List.mem_cons_of_mem _ ha)).insert (h b List.mem_cons_self)
    exact ⟨is, hp.trans (List.perm_append_singleton _ _), hs⟩

theorem paired_leaves {c : Core} {syms : List Byte} (hs : syms.Nodup) :
    Paired syms (fun b => (c.freqOf b).toNat) 0 (syms.map leafSlot) (leafEntries (fun b => (c.freqOf b).toNat) syms)
      (syms.foldl placeLeaf c.clearNodes) where
  forest := forest_leaves hs
  lists := lists_leaves fun _ hb => holds_leaf hb
  sorted := leafEntries_sorted hs
  weights := by
    rw [((leafEntries_perm _ syms).map _).sum_eq, List.map_map]
    rfl
  leaves := by
    rw [((leafEntries_perm _ syms).map _).sum_eq, List.map_map]
    simp [Function.comp_def, leafEntry, Tree.leaves]
  weighed := weighed_leaves

section Merges

variable {syms : List Byte} {count : Byte → Nat} {k : Nat} {es : List Entry} {c : Core}

/-- While two entries are left the next merge has a free slot (R85). -/
theorem Paired.lt {work : List Slot} {e f : Entry} (h : Paired syms count k work (e :: f :: es) c)
    (hs : syms.length ≤ 256) : k < 255 := by
  have hcount := h.forest.count
  rw [h.lists.length_eq, List.length_cons, List.length_cons] at hcount
  omega

/-- The minimum symbol of the first two entries' parent is none of the other entries'. -/
theorem minSym_mergeEntries_ne {e f g : Entry} (hs : (e :: f :: es).Pairwise Precedes) (hg : g ∈ es) :
    (mergeEntries e f).minSym ≠ g.minSym := by
  have he := (List.rel_of_pairwise_cons hs (List.mem_cons_of_mem f hg)).2
  have hf := (List.rel_of_pairwise_cons hs.of_cons hg).2
  change min e.minSym f.minSym ≠ g.minSym
  omega

/-- One merge of the arena is one merge of the ordered list. -/
theorem Paired.merge {a b p : Slot} {x : Slot} {rest : List Slot} {e f : Entry}
    (h : Paired syms count k (x :: rest) (e :: f :: es) c) (hs : syms.length ≤ 256)
    (hfit : (syms.map count).sum < 2 ^ 40) (ha : a = firstOf c x rest)
    (hb : b = firstOf c (((x :: rest).erase a).headD Config.nullSlot) ((x :: rest).erase a).tail)
    (hp : p = BitVec.ofNat 9 (256 + k)) :
    Paired syms count (k + 1) (((x :: rest).erase a).erase b ++ [p]) (insertEntry (mergeEntries e f) es)
      (mergeInto c p a b) := by
  obtain ⟨hae, hbf, hbw, hrest⟩ := h.lists.firstTwo h.sorted ha hb
  have haw : a ∈ x :: rest := ha ▸ firstOf_mem c x rest
  have g := h.forest.grove
  obtain ⟨hnull, hfree⟩ := g.next_slot_free (h.lt hs) hp
  have hweights := h.weights
  have hleaves := h.leaves
  simp only [List.map_cons, List.sum_cons, ← Nat.add_assoc] at hweights hleaves
  have hle : e.weight + f.weight ≤ (syms.map count).sum := hweights ▸ Nat.le_add_right ..
  exact
    { forest := h.forest.merge haw hbw (h.lt hs) hp
      lists := (hrest.mergeInto g hfree).insert (g.holds_parent hnull hfree hae hbf (hle.trans_lt hfit))
      sorted := insertEntry_sorted h.sorted.of_cons.of_cons fun _ => minSym_mergeEntries_ne h.sorted
      weights := (sum_map_insertEntry _ _ _).trans hweights
      leaves := (sum_map_insertEntry _ _ _).trans hleaves
      weighed := h.weighed.merge g hnull hfree hae hbf hle hfit }

/-- With one slot left the ordered list is down to that slot's entry. -/
theorem Paired.one {r : Slot} (h : Paired syms count k [r] es c) : ∃ e, es = [e] ∧ WholeTree syms count r e c := by
  obtain ⟨e, rfl⟩ := List.length_eq_one_iff.mp h.lists.length_eq.symm
  obtain ⟨is, hp, hs⟩ := h.lists
  rw [List.perm_singleton.mp hp, List.forall₂_cons] at hs
  exact ⟨e, rfl, hs.1, by simpa using h.leaves, by simpa using h.weights, h.weighed⟩

/-- The merges of the arena end in the tree that the ordered list's merges end in. -/
theorem Paired.mergeAll {m : Nat} {work : List Slot} (h : Paired syms count k work es c) (hs : syms.length ≤ 256)
    (hfit : (syms.map count).sum < 2 ^ 40) (hw : work ≠ []) (hm : work.length ≤ m + 1) :
    ∃ r d e, mergeAll m k work c = (d, [r]) ∧ mergeSorted m es = some e.tree ∧ WholeTree syms count r e d := by
  fun_induction Machine.mergeAll m k work c generalizing es with
  | case1 k work c =>
    have hpos := List.length_pos_iff.mpr hw
    obtain ⟨r, rfl⟩ := List.length_eq_one_iff.mp (show work.length = 1 by omega)
    obtain ⟨e, rfl, he⟩ := h.one
    exact ⟨r, c, e, rfl, rfl, he⟩
  | case2 => exact absurd rfl hw
  | case3 m k r c =>
    obtain ⟨e, rfl, he⟩ := h.one
    exact ⟨r, c, e, rfl, rfl, he⟩
  | case4 m k x y rest c work a left b p =>
    rename_i ih
    match es, h.lists.length_eq with
    | e :: f :: es, _ =>
      have hnext := h.merge (a := a) (b := b) (p := p) hs hfit rfl rfl rfl
      have hcount : k + (rest.length + 2) = syms.length := h.forest.count
      have hcount' : k + 1 + (left.erase b ++ [p]).length = syms.length := hnext.forest.count
      rw [List.length_cons, List.length_cons] at hm
      exact ih hnext (by simp) (by omega)

end Merges

/-! ### `BUILD_TREE` (R84, R86, R87) -/

theorem treeOf_eq (c : Core) : treeOf (fun b => (c.freqOf b).toNat) =
    mergeSorted (present c).length (leafEntries (fun b => (c.freqOf b).toNat) (present c)) := by
  have hsyms : (allSymbols.filter fun b => (c.freqOf b).toNat != 0) = present c := by
    rw [present_eq]
    refine List.filter_congr fun b _ => ?_
    rw [Bool.eq_iff_iff, bne_iff_ne, bne_iff_ne, Ne, Ne, ← BitVec.toNat_inj]
    rfl
  rw [treeOf, hsyms]
  rfl

/-- A symbol with count 0 adds nothing to the sum of the counts. -/
theorem sum_present (c : Core) :
    ((present c).map fun b => (c.freqOf b).toNat).sum = (allSymbols.map fun b => (c.freqOf b).toNat).sum := by
  rw [present_eq]
  induction allSymbols with
  | nil => rfl
  | cons b bs ih =>
    rw [List.filter_cons, List.map_cons, List.sum_cons, ← ih]
    split
    · rfl
    · have hb : c.freqOf b = 0 := by simpa using ‹¬ (c.freqOf b != 0) = true›
      simp [hb]

/-- At most 256 counts, each below 2^32, sum to less than 2^40: the width of a weight (R86). -/
theorem sum_present_lt (c : Core) : ((present c).map fun b => (c.freqOf b).toNat).sum < 2 ^ 40 := by
  have hle := List.sum_le_card_nsmul ((present c).map fun b => (c.freqOf b).toNat) (2 ^ 32 - 1) fun x hx => by
    obtain ⟨b, -, rfl⟩ := List.mem_map.mp hx
    exact Nat.le_sub_one_of_lt (c.freqOf b).isLt
  have hlen := present_length_le c
  rw [List.length_map, smul_eq_mul] at hle
  omega

/-- The body of `BUILD_TREE` leaves at the root the entry that the ordered list's merges end in: its tree is the tree of
the counts. -/
theorem buildTree_wholeTree {w : Work} (h : present w.core ≠ []) :
    ∃ v e, buildTree w = .ok () v ∧ v.ports = w.ports ∧ treeOf (fun b => (w.core.freqOf b).toNat) = some e.tree ∧
      WholeTree (present w.core) (fun b => (w.core.freqOf b).toNat) v.core.root e v.core := by
  have hpaired := paired_leaves (c := { w.core with treeV := false, codesV := false }) (present_nodup w.core)
  obtain ⟨r, d, e, hmerge, htree, hwhole⟩ :=
    hpaired.mergeAll (m := (present w.core).length) (present_length_le w.core) (sum_present_lt w.core)
      (by simpa using h) (by simp)
  refine ⟨w.setCore { d with
    root := r, nleaf := BitVec.ofNat 9 (present w.core).length, treeSrc := false, treeV := true }, e, ?_, rfl,
    (treeOf_eq w.core).trans htree, hwhole.of_node_eq rfl⟩
  simp only [buildTree, if_neg h, hmerge]
  rfl

theorem execBuildTree_of_body {s : State} {v : Work} (h : buildTree s.work = .ok () v) :
    exec .buildTree s = .next (complete (s.setWork v)) := by
  change settle s (buildTree s.work) = _
  rw [h]
  rfl

/-- Settles O36: merge by merge the arena's worklist and the ordered list of entries stay paired, so both end in one
tree. -/
theorem buildTreeRefinesSortedMerge : Obligations.BuildTreeRefinesSortedMerge := by
  unfold Obligations.BuildTreeRefinesSortedMerge
  rintro s ⟨b, hb⟩
  obtain ⟨v, e, hv, hports, htree, hwhole⟩ :=
    buildTree_wholeTree (w := s.work) (List.ne_nil_of_mem (mem_present.mpr hb))
  have hroot : v.core.tree = some e.tree :=
    treeAt_mono hwhole.holds.tree (hwhole.leaves.trans_le (present_length_le s.core))
  exact ⟨_, execBuildTree_of_body hv, rfl, buildTree_frame hv, hports, hroot.trans htree.symm,
    Option.isSome_of_eq_some hroot⟩

/-- Settles O39: the merges keep the weights exact and at most the sum of the counts, which the entry at the root
weighs. -/
theorem weightsNeverWrap : Obligations.WeightsNeverWrap := by
  unfold Obligations.WeightsNeverWrap
  rintro s ⟨b, hb⟩
  obtain ⟨v, e, hv, -, -, hwhole⟩ := buildTree_wholeTree (w := s.work) (List.ne_nil_of_mem (mem_present.mpr hb))
  rw [← sum_present]
  exact ⟨_, execBuildTree_of_body hv, hwhole.holds.weight.trans hwhole.weight, hwhole.weighed.inner,
    fun b hb => hwhole.weighed.leaf b (mem_present.mpr hb), hwhole.weighed.bound⟩

end Sys2Proof.Machine

/-! ## The code table of `GEN_CODES` (R91 to R95) -/

namespace Sys2Proof.Machine

/-! ### Paths and codes of a tree (R92, R93) -/

theorem Tree.mem_paths_leaf {a b : Byte} {p : List Bool} : (b, p) ∈ (Tree.leaf a).paths ↔ b = a ∧ p = [] := by
  simp [Tree.paths]

/-- A path of an internal node is a side, then a path of the subtree on that side. -/
theorem Tree.mem_paths_node {z o : Tree} {b : Byte} {p : List Bool} :
    (b, p) ∈ (Tree.node z o).paths ↔ ∃ side q, p = side :: q ∧ (b, q) ∈ (if side then o else z).paths := by
  simp [Tree.paths, eq_comm, and_comm]

theorem Tree.paths_length (t : Tree) : t.paths.length = t.leaves := by
  induction t with
  | leaf b => rfl
  | node z o hz ho => simp [Tree.paths, Tree.leaves, hz, ho]

theorem Tree.paths_nodup (t : Tree) : t.paths.Nodup := by
  have cons_injective (side : Bool) : Function.Injective fun p : Byte × List Bool => (p.1, side :: p.2) := by
    rintro ⟨a, p⟩ ⟨b, q⟩ h
    simpa using h
  induction t with
  | leaf b => simp [Tree.paths]
  | node z o hz ho =>
    refine (hz.map (cons_injective false)).append (ho.map (cons_injective true)) fun x hx hy => ?_
    obtain ⟨p, -, rfl⟩ := List.mem_map.mp hx
    obtain ⟨q, -, h⟩ := List.mem_map.mp hy
    simp at h

/-- A path has at most as many edges as the tree has internal nodes (R95). -/
theorem Tree.length_le_internals {t : Tree} {b : Byte} {p : List Bool} (h : (b, p) ∈ t.paths) :
    p.length ≤ t.internals := by
  induction t generalizing p with
  | leaf a => simp [(Tree.mem_paths_leaf.mp h).2]
  | node z o hz ho =>
    obtain ⟨side, q, rfl, hsub⟩ := Tree.mem_paths_node.mp h
    simp only [List.length_cons, Tree.internals]
    cases side with
    | false => have := hz hsub; omega
    | true => have := ho hsub; omega

/-- No path begins another leaf's path (R94). -/
theorem Tree.eq_of_path_prefix {t : Tree} {a b : Byte} {p q : List Bool} (hp : (a, p) ∈ t.paths)
    (hq : (b, q) ∈ t.paths) (h : p <+: q) : a = b := by
  induction t generalizing p q with
  | leaf c => rw [(Tree.mem_paths_leaf.mp hp).1, (Tree.mem_paths_leaf.mp hq).1]
  | node z o hz ho =>
    obtain ⟨side, p, rfl, hp'⟩ := Tree.mem_paths_node.mp hp
    obtain ⟨side', q, rfl, hq'⟩ := Tree.mem_paths_node.mp hq
    obtain ⟨rfl, h'⟩ := List.cons_prefix_cons.mp h
    cases side with
    | false => exact hz hp' hq' h'
    | true => exact ho hp' hq' h'

/-- The paths fill the binary tree: over n levels, their shares of the 2^n ends add up to all of them (R94). -/
theorem Tree.sum_paths {t : Tree} {n : Nat} (h : t.internals ≤ n) :
    (t.paths.map fun p => 2 ^ (n - p.2.length)).sum = 2 ^ n := by
  induction t generalizing n with
  | leaf b => simp [Tree.paths]
  | node z o hz ho =>
    simp only [Tree.internals] at h
    obtain ⟨n, rfl⟩ := Nat.exists_eq_succ_of_ne_zero (n := n) (by omega)
    have ez := hz (n := n) (by omega)
    have eo := ho (n := n) (by omega)
    simp only [Tree.paths, List.map_append, List.map_map, List.sum_append, Function.comp_def, List.length_cons,
      Nat.succ_eq_add_one, Nat.add_sub_add_right, ez, eo, Nat.pow_succ]
    omega

/-- A byte with a code has it from a leaf of the tree. -/
theorem Tree.mem_codes_of_codeOf_ne_nil {t : Tree} {b : Byte} (h : t.codeOf b ≠ []) : (b, t.codeOf b) ∈ t.codes := by
  unfold Tree.codeOf at h ⊢
  cases hf : t.codes.find? fun p => p.1 == b with
  | none => simp [hf] at h
  | some p =>
    obtain rfl : p.1 = b := by simpa using List.find?_some hf
    exact List.mem_of_find?_eq_some hf

/-- A byte's only code is the one the tree gives it. -/
theorem Tree.codeOf_eq_of_mem {t : Tree} {b : Byte} {p : List Bool} (h : (b, p) ∈ t.codes)
    (hu : ∀ q, (b, q) ∈ t.codes → q = p) : t.codeOf b = p := by
  unfold Tree.codeOf
  cases hf : t.codes.find? fun p => p.1 == b with
  | none => simpa using List.find?_eq_none.mp hf (b, p) h
  | some q =>
    obtain rfl : q.1 = b := by simpa using List.find?_some hf
    exact hu q.2 (List.mem_of_find?_eq_some hf)

theorem Tree.codeOf_leaf_same (b : Byte) : (Tree.leaf b).codeOf b = [false] := by
  simp [Tree.codeOf, Tree.codes]

theorem Tree.codeOf_leaf_other {a b : Byte} (h : b ≠ a) : (Tree.leaf a).codeOf b = [] := by
  simp [Tree.codeOf, Tree.codes, h.symm]

/-! ### The slots of the arena that hold nodes -/

theorem allSlots_zip_node (c : Core) : allSlots.zip c.node.toList = allSlots.map fun i => (i, c.nodeAt i) := by
  refine List.ext_getElem (by simp [allSlots]) fun i h1 h2 => ?_
  have hi : i < 511 := by simpa [allSlots] using h2
  simp [allSlots, Core.nodeAt, Nat.mod_eq_of_lt (show i < 512 by omega), hi]

theorem mem_allSlots {i : Slot} : i ∈ allSlots ↔ i ≠ Config.nullSlot := by
  simp only [allSlots, List.mem_map, List.mem_range]
  constructor
  · rintro ⟨k, hk, rfl⟩
    exact slot_ne_null hk
  · intro h
    have hne : i.toNat ≠ 511 := fun k => h (BitVec.eq_of_toNat_eq k)
    exact ⟨i.toNat, show i.toNat < 511 by omega, by simp⟩

theorem allSlots_nodup : allSlots.Nodup := by
  refine List.nodup_range.map_on fun i hi j hj h => ?_
  have hi' : i < 511 := List.mem_range.mp hi
  have hj' : j < 511 := List.mem_range.mp hj
  rw [← slot_toNat (show i < 512 by omega), h, slot_toNat (by omega)]

theorem ne_null_of_valid {c : Core} {i : Slot} (h : (c.nodeAt i).valid = true) : i ≠ Config.nullSlot := by
  rintro rfl
  rw [nodeAt_null] at h
  cases h

theorem leafSlots_eq (c : Core) : leafSlots c = allSlots.filter fun i => (c.nodeAt i).valid && (c.nodeAt i).leaf := by
  simp only [leafSlots, allSlots_zip_node, List.filter_map, List.map_map]
  exact List.map_id _

theorem validSlots_eq (c : Core) : validSlots c = allSlots.filter fun i => (c.nodeAt i).valid := by
  simp only [validSlots, allSlots_zip_node, List.filter_map, List.map_map]
  exact List.map_id _

theorem mem_leafSlots {c : Core} {i : Slot} :
    i ∈ leafSlots c ↔ (c.nodeAt i).valid = true ∧ (c.nodeAt i).leaf = true := by
  rw [leafSlots_eq, List.mem_filter, mem_allSlots, Bool.and_eq_true]
  exact ⟨And.right, fun h => ⟨ne_null_of_valid h.1, h⟩⟩

theorem mem_validSlots {c : Core} {i : Slot} : i ∈ validSlots c ↔ (c.nodeAt i).valid = true := by
  rw [validSlots_eq, List.mem_filter, mem_allSlots]
  exact ⟨And.right, fun h => ⟨ne_null_of_valid h, h⟩⟩

theorem leafSlots_nodup (c : Core) : (leafSlots c).Nodup := by
  rw [leafSlots_eq]
  exact allSlots_nodup.filter _

/-! ### The built tree in the arena (R25, R26) -/

/-- The child of a node on a side: `C0` on side 0, `C1` on side 1. -/
def Node.child (n : Node) (side : Bool) : Slot := if side then n.c1 else n.c0

theorem exists_succ_of_treeAt {c : Core} {i : Slot} {d : Nat} {t : Tree} (h : c.treeAt d i = some t) :
    ∃ n, d = n + 1 := by
  cases d with
  | zero => cases h
  | succ d => exact ⟨d, rfl⟩

/-- A tree under an internal node is one over the trees under its children. -/
theorem treeAt_inner_cases {c : Core} {i : Slot} {d : Nat} {t : Tree} (h : c.treeAt (d + 1) i = some t)
    (hl : (c.nodeAt i).leaf = false) :
    ∃ z o, t = .node z o ∧ ∀ side, c.treeAt d ((c.nodeAt i).child side) = some (if side then o else z) := by
  rcases treeAt_succ_cases h with ⟨-, ⟨hl', -⟩ | ⟨z, o, -, hz, ho, rfl⟩⟩
  · rw [hl'] at hl
    cases hl
  · exact ⟨z, o, rfl, fun side => by cases side <;> assumption⟩

/-- Built tree `tr` fills the arena: what the invariant says of the arena while it holds a built tree (R24 to R27). -/
structure BuiltArena (c : Core) (tr : Tree) : Prop where
  rootValid : (c.nodeAt c.root).valid = true
  linked : ∀ i : Slot, (c.nodeAt i).valid = true → linked c i = true
  tree : c.treeAt 256 c.root = some tr
  climbs : ∀ i ∈ leafSlots c, ∃ sides, climb c 256 i = some sides
  count : c.nleaf.toNat = (leafSlots c).length
  atSymbol : ∀ i ∈ leafSlots c, i = leafSlot (c.nodeAt i).sym

theorem builtArena_of_treeOk {c : Core} {tr : Tree} (h : TreeOk c) (hv : c.treeV = true) (hs : c.treeSrc = false)
    (ht : c.tree = some tr) : BuiltArena c tr := by
  obtain ⟨-, hroot, hlinked, -, hclimbs, hcount, hsym⟩ := h hv
  simp only [List.all_eq_true, mem_validSlots, Option.isSome_iff_exists, beq_iff_eq] at hlinked hclimbs hsym
  exact ⟨hroot, hlinked, ht, hclimbs, hcount, hsym hs⟩

/-- `TREE_V` is 1 only with a tree in the arena (R24). -/
theorem exists_builtArena {c : Core} (h : CoreInv c) (hv : c.treeV = true) (hs : c.treeSrc = false) :
    ∃ tr, BuiltArena c tr := by
  obtain ⟨-, -, -, hok, -⟩ := h
  obtain ⟨-, -, -, htree, -⟩ := hok hv
  obtain ⟨tr, ht⟩ := Option.isSome_iff_exists.mp htree
  exact ⟨tr, builtArena_of_treeOk hok hv hs ht⟩

section Arena

variable {c : Core} {tr : Tree} {i : Slot}

theorem BuiltArena.root_parent (h : BuiltArena c tr) : (c.nodeAt c.root).parent = Config.nullSlot := by
  have hl := h.linked c.root h.rootValid
  simp only [Machine.linked, beq_self_eq_true, if_true, Bool.and_eq_true, beq_iff_eq] at hl
  exact hl.1.1

/-- Every node but the root is the child of its parent, an internal node, on its own side (R25, R26). -/
theorem BuiltArena.parent (h : BuiltArena c tr) (hi : (c.nodeAt i).valid = true) (hr : i ≠ c.root) :
    (c.nodeAt i).parent ≠ Config.nullSlot ∧ (c.nodeAt (c.nodeAt i).parent).valid = true ∧
      (c.nodeAt (c.nodeAt i).parent).leaf = false ∧
      (c.nodeAt (c.nodeAt i).parent).child (c.nodeAt i).side = i := by
  have hl := h.linked i hi
  cases hs : (c.nodeAt i).side <;> simp_all [Machine.linked, Node.child]

/-- Each child of an internal node has that node as its parent, and its own side of it (R25, R26). -/
theorem BuiltArena.child (h : BuiltArena c tr) (hi : (c.nodeAt i).valid = true) (hl : (c.nodeAt i).leaf = false)
    (side : Bool) :
    (c.nodeAt ((c.nodeAt i).child side)).valid = true ∧ (c.nodeAt ((c.nodeAt i).child side)).parent = i ∧
      (c.nodeAt ((c.nodeAt i).child side)).side = side := by
  have hl' := h.linked i hi
  cases side <;> simp_all [Machine.linked, Node.child]

/-! ### The climb (R92) -/

theorem climb_of_node_eq {d : Core} (hn : d.node = c.node) (k : Nat) (i : Slot) : climb d k i = climb c k i := by
  induction k generalizing i with
  | zero => rfl
  | succ k ih => rw [climb, climb, nodeAt_of_node_eq hn, ih]

theorem climb_succ_root {k : Nat} (hn : i ≠ Config.nullSlot) (hp : (c.nodeAt i).parent = Config.nullSlot) :
    climb c (k + 1) i = some [] := by
  rw [climb, if_neg hn, if_pos hp]

theorem climb_succ_child {k : Nat} {sides : List Bool} (hn : i ≠ Config.nullSlot)
    (hp : (c.nodeAt i).parent ≠ Config.nullSlot) (h : climb c k (c.nodeAt i).parent = some sides) :
    climb c (k + 1) i = some ((c.nodeAt i).side :: sides) := by
  rw [climb, if_neg hn, if_neg hp, h]
  rfl

/-- A climb that ends is at a node without a parent, or goes on from the parent. -/
theorem climb_succ_cases {k : Nat} {sides : List Bool} (h : climb c (k + 1) i = some sides) :
    i ≠ Config.nullSlot ∧
      (((c.nodeAt i).parent = Config.nullSlot ∧ sides = []) ∨
        ∃ rest, (c.nodeAt i).parent ≠ Config.nullSlot ∧ climb c k (c.nodeAt i).parent = some rest ∧
          sides = (c.nodeAt i).side :: rest) := by
  rw [climb] at h
  split at h
  · cases h
  · refine ⟨‹_›, ?_⟩
    split at h
    · cases h
      exact .inl ⟨‹_›, rfl⟩
    · obtain ⟨rest, hr, rfl⟩ := Option.map_eq_some_iff.mp h
      exact .inr ⟨rest, ‹_›, hr, rfl⟩

theorem climb_length_lt {k : Nat} {sides : List Bool} (h : climb c k i = some sides) : sides.length < k := by
  induction k generalizing i sides with
  | zero => cases h
  | succ k ih =>
    rcases climb_succ_cases h with ⟨-, ⟨-, rfl⟩ | ⟨rest, -, hr, rfl⟩⟩
    · exact Nat.succ_pos k
    · exact Nat.succ_lt_succ (ih hr)

/-- Two climbs from one node find the same sides, whatever their bounds. -/
theorem climb_unique {k m : Nat} {p q : List Bool} (hp : climb c k i = some p) (hq : climb c m i = some q) : p = q := by
  induction k generalizing m i p q with
  | zero => cases hp
  | succ k ih =>
    obtain ⟨m, rfl⟩ := Nat.exists_eq_succ_of_ne_zero (Nat.ne_zero_of_lt (climb_length_lt hq))
    rcases climb_succ_cases hp with ⟨-, ⟨hn, rfl⟩ | ⟨p, hn, hp', rfl⟩⟩ <;>
      rcases climb_succ_cases hq with ⟨-, ⟨hm, rfl⟩ | ⟨q, hm, hq', rfl⟩⟩
    · rfl
    · exact absurd hn hm
    · exact absurd hm hn
    · rw [ih hp' hq']

/-- A climb from a node of the arena ends at the root, so the sides it met, read downwards, lead through the tree to the
subtree under that node. -/
theorem BuiltArena.paths_of_climb (h : BuiltArena c tr) {k : Nat} {sides : List Bool} (hi : (c.nodeAt i).valid = true)
    (hc : climb c k i = some sides) :
    ∃ d t, c.treeAt d i = some t ∧ ∀ b q, (b, q) ∈ t.paths → (b, sides.reverse ++ q) ∈ tr.paths := by
  induction k generalizing i sides with
  | zero => cases hc
  | succ k ih =>
    rcases climb_succ_cases hc with ⟨-, ⟨hn, rfl⟩ | ⟨rest, hn, hr, rfl⟩⟩
    · obtain rfl : i = c.root := by
        by_contra hne
        exact (h.parent hi hne).1 hn
      exact ⟨256, tr, h.tree, fun _ _ hq => hq⟩
    · have hne : i ≠ c.root := by
        rintro rfl
        exact hn h.root_parent
      obtain ⟨-, hpv, hpl, hpc⟩ := h.parent hi hne
      obtain ⟨d, t, ht, hpaths⟩ := ih hpv hr
      obtain ⟨d, rfl⟩ := exists_succ_of_treeAt ht
      obtain ⟨z, o, rfl, hsub⟩ := treeAt_inner_cases ht hpl
      refine ⟨d, _, hpc ▸ hsub (c.nodeAt i).side, fun b q hq => ?_⟩
      rw [List.reverse_cons, List.append_assoc]
      exact hpaths b _ (Tree.mem_paths_node.mpr ⟨_, q, rfl, hq⟩)

/-- A path of the subtree under a node leads down to a leaf, from which the climb meets the path's sides, and then those
it meets from the node. -/
theorem BuiltArena.climb_of_path (h : BuiltArena c tr) {d k : Nat} {t : Tree} {b : Byte} {p sides : List Bool}
    (hi : (c.nodeAt i).valid = true) (hc : climb c k i = some sides) (ht : c.treeAt d i = some t)
    (hp : (b, p) ∈ t.paths) :
    ∃ j ∈ leafSlots c, (c.nodeAt j).sym = b ∧ ∃ m, climb c m j = some (p.reverse ++ sides) := by
  induction d generalizing i k t p sides with
  | zero => cases ht
  | succ d ih =>
    cases hl : (c.nodeAt i).leaf with
    | true =>
      rw [treeAt_leaf d (ne_null_of_valid hi) hl] at ht
      cases ht
      obtain ⟨rfl, rfl⟩ := Tree.mem_paths_leaf.mp hp
      exact ⟨i, mem_leafSlots.mpr ⟨hi, hl⟩, rfl, k, hc⟩
    | false =>
      obtain ⟨z, o, rfl, hsub⟩ := treeAt_inner_cases ht hl
      obtain ⟨side, q, rfl, hq⟩ := Tree.mem_paths_node.mp hp
      obtain ⟨hv, hparent, hside⟩ := h.child hi hl side
      have hstep : climb c (k + 1) ((c.nodeAt i).child side) = some (side :: sides) := by
        rw [climb_succ_child (ne_null_of_valid hv) (hparent.symm ▸ ne_null_of_valid hi) (hparent.symm ▸ hc), hside]
      simpa using ih hv hstep (hsub side) hq

/-- The paths of the tree are the climbs from the arena's leaves, read downwards (R92). -/
theorem BuiltArena.mem_paths_iff (h : BuiltArena c tr) {b : Byte} {p : List Bool} :
    (b, p) ∈ tr.paths ↔ leafSlot b ∈ leafSlots c ∧ climb c 256 (leafSlot b) = some p.reverse := by
  constructor
  · intro hp
    have hroot := climb_succ_root (k := 0) (ne_null_of_valid h.rootValid) h.root_parent
    obtain ⟨j, hj, rfl, m, hm⟩ := h.climb_of_path h.rootValid hroot h.tree hp
    obtain ⟨sides, hs⟩ := h.climbs j hj
    rw [← h.atSymbol j hj]
    refine ⟨hj, hs.trans ?_⟩
    rw [climb_unique hs hm, List.append_nil]
  · rintro ⟨hb, hc⟩
    obtain ⟨hv, hl⟩ := mem_leafSlots.mp hb
    obtain ⟨d, t, ht, hpaths⟩ := h.paths_of_climb hv hc
    obtain ⟨d, rfl⟩ := exists_succ_of_treeAt ht
    rw [treeAt_leaf d (ne_null_of_valid hv) hl] at ht
    cases ht
    have hsym : (c.nodeAt (leafSlot b)).sym = b := (leafSlot_injective (h.atSymbol _ hb)).symm
    simpa using hpaths b [] (Tree.mem_paths_leaf.mpr ⟨hsym.symm, rfl⟩)

theorem BuiltArena.path_unique (h : BuiltArena c tr) {b : Byte} {p q : List Bool} (hp : (b, p) ∈ tr.paths)
    (hq : (b, q) ∈ tr.paths) : p = q :=
  List.reverse_injective (climb_unique (h.mem_paths_iff.mp hp).2 (h.mem_paths_iff.mp hq).2)

theorem BuiltArena.mem_leafSlots_iff (h : BuiltArena c tr) {b : Byte} :
    leafSlot b ∈ leafSlots c ↔ ∃ p, (b, p) ∈ tr.paths := by
  constructor
  · intro hb
    obtain ⟨sides, hs⟩ := h.climbs _ hb
    exact ⟨sides.reverse, h.mem_paths_iff.mpr ⟨hb, by rw [List.reverse_reverse, hs]⟩⟩
  · rintro ⟨p, hp⟩
    exact (h.mem_paths_iff.mp hp).1

/-- The symbols of the tree's leaves, one for each leaf. -/
theorem BuiltArena.symbols_nodup (h : BuiltArena c tr) : (tr.paths.map Prod.fst).Nodup := by
  refine tr.paths_nodup.map_on ?_
  rintro ⟨a, p⟩ hp ⟨b, q⟩ hq (rfl : a = b)
  rw [h.path_unique hp hq]

theorem BuiltArena.mem_symbols (h : BuiltArena c tr) {b : Byte} :
    b ∈ tr.paths.map Prod.fst ↔ leafSlot b ∈ leafSlots c := by
  simp [h.mem_leafSlots_iff]

/-- `NLEAF` counts the leaves of the tree (R24). -/
theorem BuiltArena.nleaf_eq (h : BuiltArena c tr) : c.nleaf.toNat = tr.leaves := by
  have hperm : ((tr.paths.map Prod.fst).map leafSlot).Perm (leafSlots c) := by
    refine (List.perm_ext_iff_of_nodup (h.symbols_nodup.map leafSlot_injective) (leafSlots_nodup c)).mpr fun i => ?_
    rw [List.mem_map]
    simp only [h.mem_symbols]
    constructor
    · rintro ⟨b, hb, rfl⟩
      exact hb
    · intro hi
      have hs := h.atSymbol i hi
      exact ⟨(c.nodeAt i).sym, by rwa [← hs], hs.symm⟩
  rw [h.count, ← hperm.length_eq, List.length_map, List.length_map, tr.paths_length]

/-- A tree of distinct bytes has at most 256 leaves, so at most 255 internal nodes. -/
theorem BuiltArena.internals_le (h : BuiltArena c tr) : tr.internals ≤ 255 := by
  have hle := (h.symbols_nodup.subperm fun b _ => mem_allSymbols b).length_le
  rw [List.length_map, tr.paths_length, allSymbols_length, tr.leaves_eq] at hle
  omega

/-! ### The codes of the built tree -/

theorem BuiltArena.codeOf_path {z o : Tree} (h : BuiltArena c (.node z o)) {b : Byte} {p : List Bool}
    (hp : (b, p) ∈ (Tree.node z o).paths) : (Tree.node z o).codeOf b = p :=
  Tree.codeOf_eq_of_mem hp fun _ hq => h.path_unique hq hp

theorem BuiltArena.climb_eq_codeOf {z o : Tree} (h : BuiltArena c (.node z o)) (b : Byte)
    (hb : leafSlot b ∈ leafSlots c) : climb c 256 (leafSlot b) = some ((Tree.node z o).codeOf b).reverse := by
  obtain ⟨p, hp⟩ := h.mem_leafSlots_iff.mp hb
  rw [h.codeOf_path hp]
  exact (h.mem_paths_iff.mp hp).2

theorem BuiltArena.codeOf_eq_nil {z o : Tree} (h : BuiltArena c (.node z o)) {b : Byte}
    (hb : leafSlot b ∉ leafSlots c) : (Tree.node z o).codeOf b = [] := by
  by_contra hne
  exact hb (h.mem_leafSlots_iff.mpr ⟨_, Tree.mem_codes_of_codeOf_ne_nil hne⟩)

/-- A code takes at most 255 bits, so its length fits in `CODE_LEN` (R95). -/
theorem BuiltArena.codeOf_length_lt {z o : Tree} (h : BuiltArena c (.node z o)) (b : Byte) :
    ((Tree.node z o).codeOf b).length < 256 := by
  by_cases hb : leafSlot b ∈ leafSlots c
  · simpa using climb_length_lt (h.climb_eq_codeOf b hb)
  · simp [h.codeOf_eq_nil hb]

end Arena

/-! ### Codes in the table (R28, R92) -/

theorem getLsbD_setBit {n : Nat} (v : BitVec n) {i : Nat} (hi : i < n) (b : Bool) (j : Nat) :
    (setBit v i b).getLsbD j = if j = i then b else v.getLsbD j := by
  by_cases hj : j < n
  · cases b <;> by_cases hji : j = i <;> simp [setBit, hj, hji, hi] <;> omega
  · rw [if_neg (by omega), BitVec.getLsbD_of_ge _ _ (by omega), BitVec.getLsbD_of_ge _ _ (by omega)]

/-- Writing a code from bit k on leaves the bits before k and after the code (R92). -/
theorem getLsbD_writeCode {k : Nat} {bs : List Bool} {v : CodeWord} (h : k + bs.length ≤ 256) {j : Nat}
    (hj : j < 256) :
    (writeCode k bs v).getLsbD (255 - j) =
      if j < k then v.getLsbD (255 - j) else bs.getD (j - k) (v.getLsbD (255 - j)) := by
  induction bs generalizing k v with
  | nil => simp [writeCode]
  | cons b bs ih =>
    rw [List.length_cons] at h
    rw [writeCode, ih (by omega), getLsbD_setBit _ (by omega)]
    rcases Nat.lt_trichotomy j k with hjk | rfl | hjk
    · rw [if_pos (by omega), if_pos hjk, if_neg (by omega)]
    · simp
    · rw [if_neg (by omega), if_neg (by omega), if_neg (by omega), show j - k = j - (k + 1) + 1 by omega,
        List.getD_cons_succ]

/-- The entry of b in the code table is `code`, left-aligned, and the bits past it are 0 (R28). -/
structure HasCode (c : Core) (b : Byte) (code : List Bool) : Prop where
  len : (c.codeLenOf b).toNat = code.length
  bits : ∀ k < 256, (c.codeBitsOf b).getLsbD (255 - k) = code.getD k false

section Table

variable {c : Core} {a b : Byte} {code : List Bool}

theorem HasCode.codeOf_eq (h : HasCode c b code) : c.codeOf b = code := by
  have hlt := (c.codeLenOf b).isLt
  refine List.ext_getElem (by simp [Core.codeOf, h.len]) fun k hk hk' => ?_
  rw [h.len] at hlt
  simp [Core.codeOf, h.bits k (by omega), hk']

theorem HasCode.getLsbD_past (h : HasCode c b code) {k : Nat} (hk : (c.codeLenOf b).toNat ≤ k) (hlt : k < 256) :
    (c.codeBitsOf b).getLsbD (255 - k) = false := by
  rw [h.bits k hlt]
  exact List.getD_eq_default _ _ (h.len ▸ hk)

theorem codeOf_length (c : Core) (b : Byte) : (c.codeOf b).length = (c.codeLenOf b).toNat := by
  simp [Core.codeOf]

theorem hasCode_clearCodes (c : Core) (b : Byte) : HasCode c.clearCodes b [] := by
  constructor
  · simp [Core.codeLenOf]
  · simp [Core.codeBitsOf]

theorem hasCode_enterCode (h : HasCode c b []) (hlt : code.length < 256) : HasCode (enterCode c b code) b code := by
  constructor
  · rw [enterCode, codeLenOf_setCode_same]
    exact Nat.mod_eq_of_lt hlt
  · intro k hk
    rw [enterCode, codeBitsOf_setCode_same, getLsbD_writeCode (by omega) hk, h.bits k hk]
    simp

theorem HasCode.enterCode_other {l : List Bool} (h : HasCode c a l) (hab : a ≠ b) :
    HasCode (enterCode c b code) a l := by
  constructor
  · rw [enterCode, codeLenOf_setCode_other _ _ _ hab, h.len]
  · intro k hk
    rw [enterCode, codeBitsOf_setCode_other _ _ _ hab, h.bits k hk]

/-- `single_code` enters the code 0 (R93). -/
theorem singleCode_eq (c : Core) (b : Byte) : singleCode b c = enterCode c b [false] := rfl

end Table

/-! ### `GEN_CODES` (R91 to R93) -/

/-- The walks enter the code of every leaf on their list: with the other symbols' codes in place before them, all are in
place after them. -/
theorem walkAll_enters {code : Byte → List Bool} (hlen : ∀ b, (code b).length < 256) {is : List Slot} {w : Work}
    (hn : is.Nodup) (hsym : ∀ i ∈ is, i = leafSlot (w.core.nodeAt i).sym)
    (hclimb : ∀ b, leafSlot b ∈ is → climb w.core 256 (leafSlot b) = some (code b).reverse)
    (todo : ∀ b, leafSlot b ∈ is → HasCode w.core b []) (done : ∀ b, leafSlot b ∉ is → HasCode w.core b (code b)) :
    ∃ v, walkAll is w = .ok () v ∧ v.ports = w.ports ∧ ∀ b, HasCode v.core b (code b) := by
  induction is generalizing w with
  | nil => exact ⟨w, rfl, rfl, fun b => done b List.not_mem_nil⟩
  | cons i is ih =>
    obtain ⟨hi, his⟩ := List.nodup_cons.mp hn
    obtain ⟨b, hb⟩ : ∃ b, b = (w.core.nodeAt i).sym := ⟨_, rfl⟩
    obtain rfl : i = leafSlot b := hb ▸ hsym i List.mem_cons_self
    have hwalk : walk (leafSlot b) w = .ok () (w.setCore (enterCode w.core b (code b))) := by
      simp only [walk, hclimb b List.mem_cons_self, ← hb, List.reverse_reverse]
    have hnode : (enterCode w.core b (code b)).node = w.core.node := rfl
    obtain ⟨v, hv, hports, hcodes⟩ := ih (w := w.setCore (enterCode w.core b (code b))) his
      (fun j hj => by
        rw [Work.setCore_core, nodeAt_of_node_eq hnode]
        exact hsym j (List.mem_cons_of_mem _ hj))
      (fun a ha => by
        rw [Work.setCore_core, climb_of_node_eq hnode]
        exact hclimb a (List.mem_cons_of_mem _ ha))
      (fun a ha => (todo a (List.mem_cons_of_mem _ ha)).enterCode_other fun k => hi (k ▸ ha))
      (fun a ha => by
        by_cases hab : a = b
        · rw [hab]
          exact hasCode_enterCode (todo b List.mem_cons_self) (hlen b)
        · refine (done a fun k => ?_).enterCode_other hab
          rcases List.mem_cons.mp k with k | k
          · exact hab (leafSlot_injective k)
          · exact ha k)
    exact ⟨v, by rw [walkAll, hwalk]; exact hv, hports, hcodes⟩

/-- With a built tree in the arena the body of `GEN_CODES` enters the tree's codes, and no others. -/
theorem genCodes_enters {w : Work} {tr : Tree} (h : BuiltArena w.core tr) :
    ∃ v, genCodes w = .ok () v ∧ v.ports = w.ports ∧ ∀ b, HasCode v.core b (tr.codeOf b) := by
  have hnull := ne_null_of_valid h.rootValid
  have hnode := nodeAt_of_node_eq (Core.clearCodes_node w.core)
  rcases treeAt_succ_cases h.tree with ⟨-, ⟨hl, rfl⟩ | ⟨z, o, hl, -, -, rfl⟩⟩
  · refine ⟨markCodes (w.setCore (singleCode (w.core.nodeAt w.core.root).sym w.core.clearCodes)), ?_, rfl, fun b => ?_⟩
    · simp only [genCodes, Work.setCore_core, Core.clearCodes_root, hnode, if_neg hnull, if_pos hl]
      rfl
    · have hc : HasCode (singleCode (w.core.nodeAt w.core.root).sym w.core.clearCodes) b
          ((Tree.leaf (w.core.nodeAt w.core.root).sym).codeOf b) := by
        rw [singleCode_eq]
        by_cases hb : b = (w.core.nodeAt w.core.root).sym
        · rw [← hb, Tree.codeOf_leaf_same]
          exact hasCode_enterCode (hasCode_clearCodes _ _) (by simp)
        · rw [Tree.codeOf_leaf_other hb]
          exact (hasCode_clearCodes _ _).enterCode_other hb
      exact ⟨hc.len, hc.bits⟩
  · have hleaves : leafSlots w.core.clearCodes = leafSlots w.core := rfl
    obtain ⟨v, hv, hports, hcodes⟩ := walkAll_enters (code := (Tree.node z o).codeOf) (is := leafSlots w.core)
      (w := w.setCore w.core.clearCodes) h.codeOf_length_lt (leafSlots_nodup _) h.atSymbol
      (fun b hb => (climb_of_node_eq (Core.clearCodes_node w.core) _ _).trans (h.climb_eq_codeOf b hb))
      (fun b _ => hasCode_clearCodes _ b) (fun b hb => h.codeOf_eq_nil hb ▸ hasCode_clearCodes _ b)
    refine ⟨markCodes v, ?_, hports, fun b => ⟨(hcodes b).len, (hcodes b).bits⟩⟩
    simp only [genCodes, Work.setCore_core, Core.clearCodes_root, hnode, if_neg hnull, hl, Bool.false_eq_true, if_false,
      hleaves, hv, Res.bind_ok]

theorem execGenCodes_enters {s : State} {tr : Tree} (hv : s.core.treeV = true) (hs : s.core.treeSrc = false)
    (h : BuiltArena s.core tr) :
    ∃ v, exec .genCodes s = .next (complete (s.setWork v)) ∧ genCodes s.work = .ok () v ∧ v.ports = s.ports ∧
      ∀ b, HasCode v.core b (tr.codeOf b) := by
  obtain ⟨v, hgen, hports, hcodes⟩ := genCodes_enters (w := s.work) h
  refine ⟨v, ?_, hgen, hports, hcodes⟩
  change checked false false s.core.builtTree genCodes s = _
  rw [checked_ready (by simp) (by simp) (by simp [Core.builtTree, hv, hs]), hgen]
  rfl

/-- Settles O40: a leaf's path in the tree is the climb from its slot read downwards, and the walks enter the climbs. -/
theorem genCodesFromPaths : Obligations.GenCodesFromPaths := by
  unfold Obligations.GenCodesFromPaths
  rintro s tr ⟨-, -, -, hok, -⟩ hv hs ht
  obtain ⟨v, hexec, hgen, hports, hcodes⟩ := execGenCodes_enters hv hs (builtArena_of_treeOk hok hv hs ht)
  exact ⟨_, hexec, rfl, genCodes_frame hgen, hports, fun b => (hcodes b).codeOf_eq,
    fun b _ hk hlt => (hcodes b).getLsbD_past hk hlt⟩

/-! ### No code begins another, and the code is complete (R94, R95) -/

section PrefixCode

variable {c d : Core} {z o : Tree}

/-- A byte with a code has it from a path of the tree. -/
theorem mem_paths_of_codeOf_ne_nil {b : Byte} (hd : d.codeOf b = (Tree.node z o).codeOf b) (h : d.codeOf b ≠ []) :
    (b, d.codeOf b) ∈ (Tree.node z o).paths := by
  rw [hd] at h ⊢
  exact Tree.mem_codes_of_codeOf_ne_nil h

theorem codeLenOf_le_internals {b : Byte} (hd : d.codeOf b = (Tree.node z o).codeOf b) :
    (d.codeLenOf b).toNat ≤ (Tree.node z o).internals := by
  rw [← codeOf_length]
  by_cases h : d.codeOf b = []
  · simp [h]
  · exact Tree.length_le_internals (mem_paths_of_codeOf_ne_nil hd h)

/-- The coded symbols are those of the tree's leaves. -/
theorem BuiltArena.codedSymbols_perm (h : BuiltArena c (.node z o))
    (hd : ∀ b, d.codeOf b = (Tree.node z o).codeOf b) :
    (allSymbols.filter fun b => d.codeLenOf b != 0).Perm ((Tree.node z o).paths.map Prod.fst) := by
  refine (List.perm_ext_iff_of_nodup (allSymbols_nodup.filter _) h.symbols_nodup).mpr fun b => ?_
  have hcoded : d.codeLenOf b ≠ 0 ↔ d.codeOf b ≠ [] := by
    rw [← List.length_pos_iff, codeOf_length, ← BitVec.toNat_ne_iff_ne]
    exact Nat.pos_iff_ne_zero.symm
  rw [List.mem_filter, bne_iff_ne, hcoded, h.mem_symbols, h.mem_leafSlots_iff]
  constructor
  · rintro ⟨-, hne⟩
    exact ⟨_, mem_paths_of_codeOf_ne_nil (hd b) hne⟩
  · rintro ⟨p, hp⟩
    obtain ⟨side, q, rfl, -⟩ := Tree.mem_paths_node.mp hp
    exact ⟨mem_allSymbols b, by rw [hd, h.codeOf_path hp]; exact List.cons_ne_nil _ _⟩

/-- The coded symbols' shares of the 2^255 ends add up to all of them (R94). -/
theorem BuiltArena.sum_coded (h : BuiltArena c (.node z o)) (hd : ∀ b, d.codeOf b = (Tree.node z o).codeOf b) :
    ((allSymbols.filter fun b => d.codeLenOf b != 0).map fun b => 2 ^ (255 - (d.codeLenOf b).toNat)).sum = 2 ^ 255 := by
  rw [((h.codedSymbols_perm hd).map _).sum_eq, List.map_map, ← Tree.sum_paths h.internals_le]
  refine congrArg List.sum (List.map_congr_left ?_)
  rintro ⟨b, p⟩ hp
  rw [Function.comp_apply, ← codeOf_length, hd, h.codeOf_path hp]

end PrefixCode

/-- Settles O41: the codes in the table are the paths of the tree (O40), and of a tree's paths none begins another, none
is longer than the internal nodes are many, and together they fill the binary tree. -/
theorem codesArePrefixFree : Obligations.CodesArePrefixFree := by
  unfold Obligations.CodesArePrefixFree
  intro s hinv hv hs
  obtain ⟨tr, h⟩ := exists_builtArena hinv hv hs
  obtain ⟨v, hexec, -, -, hcodes⟩ := execGenCodes_enters hv hs h
  have hd (b : Byte) : v.core.codeOf b = tr.codeOf b := (hcodes b).codeOf_eq
  have hcount := h.nleaf_eq.trans tr.leaves_eq
  rw [hcount]
  refine ⟨_, hexec, fun h2 => ?_, fun h1 => ?_⟩
  · cases tr with
    | leaf a => simp [Tree.internals] at h2
    | node z o =>
      refine ⟨fun b e hbe hb he hpre => hbe ?_, fun b => codeLenOf_le_internals (hd b), h.sum_coded hd⟩
      exact Tree.eq_of_path_prefix (mem_paths_of_codeOf_ne_nil (hd b) hb) (mem_paths_of_codeOf_ne_nil (hd e) he) hpre
  · cases tr with
    | leaf a => exact ⟨a, (hd a).trans (Tree.codeOf_leaf_same a), fun e he => (hd e).trans (Tree.codeOf_leaf_other he)⟩
    | node z o => simp [Tree.internals] at h1

end Sys2Proof.Machine

/-! ## The bits the writer sends (R96 to R98, R100, R101) -/

namespace Sys2Proof.Machine

/-! ### The sink's answers and the bits of a byte -/

/-- A sink that takes another byte has `ok` at the front of its plan, and one `ok` fewer after it. -/
theorem oksAhead_succ {n : Nat} {p : Ports} :
    OksAhead (n + 1) p ↔ ∃ rest, p.sinkPlan = .ok :: rest ∧ ∀ q : Ports, q.sinkPlan = rest → OksAhead n q := by
  cases hp : p.sinkPlan with
  | nil => simp [OksAhead, hp]
  | cons a rest =>
    constructor
    · rintro ⟨hlen, hall⟩
      simp only [hp, List.take_succ_cons, List.all_cons, Bool.and_eq_true, beq_iff_eq] at hall
      exact ⟨rest, by rw [hall.1], fun q hq => by subst hq; exact ⟨by simpa [hp] using hlen, hall.2⟩⟩
    · rintro ⟨rest', h, hq⟩
      cases h
      obtain ⟨hlen, hall⟩ := hq { p with sinkPlan := rest } rfl
      exact ⟨by simpa [hp] using hlen, by simpa [hp] using hall⟩

theorem OksAhead.mono {m n : Nat} {p : Ports} (h : OksAhead n p) (hmn : m ≤ n) : OksAhead m p :=
  ⟨hmn.trans h.1, List.all_eq_true.mpr fun a ha =>
    List.all_eq_true.mp h.2 a ((List.take_prefix_take_left hmn).subset ha)⟩

/-- Bit k of a byte set, its first k + 1 bits are the k before it and the bit (R7, R97). -/
theorem take_byteBits_setBit (a : Byte) {k : Nat} (hk : k < 8) (b : Bool) :
    (byteBits (setBit a (7 - k) b)).take (k + 1) = (byteBits a).take k ++ [b] := by
  simp only [byteBits, getLsbD_setBit a (show 7 - k < 8 by omega)]
  interval_cases k <;> rfl

theorem drop_byteBits_setBit (a : Byte) {k : Nat} (hk : k < 8) (b : Bool) :
    (byteBits (setBit a (7 - k) b)).drop (k + 1) = (byteBits a).drop (k + 1) := by
  simp only [byteBits, getLsbD_setBit a (show 7 - k < 8 by omega)]
  interval_cases k <;> rfl

/-- `bitsMsb` lists the bits that the claims call the low bits (R100). -/
theorem bitsMsb_eq_lowBits (n : Nat) (v : Word) : bitsMsb n v = lowBits n v := by
  induction n with
  | zero => rfl
  | succ n ih =>
    rw [lowBits, ← ih]
    simp [bitsMsb, List.range_succ_eq_map, Nat.sub_sub, Nat.add_comm 1]

theorem lowBits_length (n : Nat) (v : Word) : (lowBits n v).length = n := by
  rw [← bitsMsb_eq_lowBits]
  simp [bitsMsb]

/-! ### Pushing bits (R97, R102) -/

/-- Every bit sent so far, of a body's state: what `bitsWritten` is of the machine's. -/
def bitsSent (w : Work) : List Bool := w.ports.outData.flatMap byteBits ++ buffered w.core

theorem bitsWritten_eq_bitsSent (s : State) : bitsWritten s = bitsSent s.work := rfl

/-- v is w after the bits bs went through the writer: one answer of the sink is used per byte filled, and the bits of
no whole byte stay buffered (R97, R102). -/
structure Pushed (bs : List Bool) (w v : Work) : Prop where
  bits : bitsSent v = bitsSent w ++ bs
  clear : WriterOk w.core → WriterOk v.core
  plan : v.ports.sinkPlan = w.ports.sinkPlan.drop ((w.core.wbCnt.toNat + bs.length) / 8)
  count : v.core.wbCnt.toNat = (w.core.wbCnt.toNat + bs.length) % 8

theorem Pushed.nil (w : Work) : Pushed [] w w := by
  have := w.core.wbCnt.isLt
  exact ⟨by simp, id, by simp [Nat.div_eq_of_lt this], by simp [Nat.mod_eq_of_lt this]⟩

theorem Pushed.append {xs ys : List Bool} {u v w : Work} (h : Pushed xs u v) (k : Pushed ys v w) :
    Pushed (xs ++ ys) u w := by
  refine ⟨by rw [k.bits, h.bits, List.append_assoc], fun hu => k.clear (h.clear hu), ?_, ?_⟩
  · rw [k.plan, h.plan, h.count, List.drop_drop, List.length_append]
    congr 1
    omega
  · rw [k.count, h.count, List.length_append]
    omega

theorem writerOk_empty (c : Core) : WriterOk (c.setWb 0 0) := by
  simp [WriterOk, byteBits]

/-- A bit that leaves the Bit Buffer short of a byte asks the sink nothing (R97). -/
theorem pushBit_short_pushed (b : Bool) {w : Work} (h : w.core.wbCnt ≠ 7) :
    ∃ v, pushBit b w = .ok () v ∧ Pushed [b] w v ∧ v.ports = w.ports ∧
      v.core.wbCnt.toNat = w.core.wbCnt.toNat + 1 := by
  have hlt : w.core.wbCnt.toNat < 7 := by bv_omega
  have hcnt : (w.core.wbCnt + 1).toNat = w.core.wbCnt.toNat + 1 := by bv_omega
  refine ⟨_, pushBit_short h, ⟨?_, fun hw => ?_, ?_, ?_⟩, rfl, hcnt⟩
  · simp only [bitsSent, buffered, Work.setCore_core, Work.setCore_ports, Core.setWb_wbCnt, Core.setWb_wbAcc, hcnt]
    rw [take_byteBits_setBit _ (Nat.lt_succ_of_lt hlt), List.append_assoc]
  · simp only [WriterOk, Work.setCore_core, Core.setWb_wbCnt, Core.setWb_wbAcc, hcnt]
    rw [drop_byteBits_setBit _ (Nat.lt_succ_of_lt hlt)]
    rw [WriterOk, byteBits_drop _ (Nat.lt_succ_of_lt hlt), List.all_cons, Bool.and_eq_true] at hw
    exact hw.2
  · simp [Nat.div_eq_of_lt (show w.core.wbCnt.toNat + 1 < 8 by omega)]
  · simp only [Work.setCore_core, Core.setWb_wbCnt, hcnt, List.length_singleton]
    omega

/-- A bit that completes a byte uses one answer of the sink and leaves the Bit Buffer empty (R97). -/
theorem pushBit_full_pushed (b : Bool) {w : Work} {rest : List SinkAnswer} (h : w.core.wbCnt = 7)
    (hp : w.ports.sinkPlan = .ok :: rest) :
    ∃ v, pushBit b w = .ok () v ∧ Pushed [b] w v ∧ v.ports.sinkPlan = rest ∧ v.core.wbCnt.toNat = 0 := by
  have hbyte : byteBits (setBit w.core.wbAcc 0 b) = (byteBits w.core.wbAcc).take 7 ++ [b] :=
    take_byteBits_setBit w.core.wbAcc (k := 7) (by decide) b
  refine ⟨_, pushBit_full h hp, ⟨?_, fun _ => writerOk_empty _, ?_, ?_⟩, rfl, rfl⟩
  · simp [bitsSent, buffered, h, hbyte]
  · simp [h, hp]
  · simp [h]

/-- While the sink takes the bytes they fill, bits go through in their order (R97, R102). -/
theorem pushBits_pushed (bs : List Bool) {w : Work} (h : OksAhead ((w.core.wbCnt.toNat + bs.length) / 8) w.ports) :
    ∃ v, pushBits bs w = .ok () v ∧ Pushed bs w v := by
  induction bs generalizing w with
  | nil => exact ⟨w, rfl, .nil w⟩
  | cons b bs ih =>
    rw [List.length_cons] at h
    obtain ⟨u, hu, hpu, hok⟩ : ∃ u, pushBit b w = .ok () u ∧ Pushed [b] w u ∧
        OksAhead ((u.core.wbCnt.toNat + bs.length) / 8) u.ports := by
      by_cases h7 : w.core.wbCnt = 7
      · have h7' : w.core.wbCnt.toNat = 7 := by simp [h7]
        rw [h7', show (7 + (bs.length + 1)) / 8 = bs.length / 8 + 1 by omega, oksAhead_succ] at h
        obtain ⟨rest, hp, hrest⟩ := h
        obtain ⟨u, hu, hpu, hplan, hcnt⟩ := pushBit_full_pushed b h7 hp
        exact ⟨u, hu, hpu, by simpa [hcnt] using hrest u.ports hplan⟩
      · obtain ⟨u, hu, hpu, hports, hcnt⟩ := pushBit_short_pushed b h7
        exact ⟨u, hu, hpu, by rw [hports, hcnt]; exact h.mono (by omega)⟩
    obtain ⟨v, hv, hpv⟩ := ih hok
    exact ⟨v, by simpa [pushBits, hu] using hv, hpu.append hpv⟩

/-- When the bits fill the byte that the sink refuses, they raise `WRITE_FAILURE` (R96, R97). -/
theorem pushBits_fails (bs : List Bool) {k : Nat} {w : Work} (h : FailsAfter k w.ports)
    (hk : 8 * (k + 1) ≤ w.core.wbCnt.toNat + bs.length) : ∃ v, pushBits bs w = .raised .writeFailure v := by
  induction bs generalizing k w with
  | nil =>
    have := w.core.wbCnt.isLt
    rw [List.length_nil] at hk
    omega
  | cons b bs ih =>
    rw [List.length_cons] at hk
    suffices (∃ v, pushBit b w = .raised .writeFailure v) ∨ ∃ u j, pushBit b w = .ok () u ∧ FailsAfter j u.ports ∧
        8 * (j + 1) ≤ u.core.wbCnt.toNat + bs.length by
      rcases this with ⟨v, hv⟩ | ⟨u, j, hu, hf, hj⟩
      · exact ⟨v, by simp [pushBits, hv]⟩
      · simpa [pushBits, hu] using ih hf hj
    by_cases h7 : w.core.wbCnt = 7
    · have h7' : w.core.wbCnt.toNat = 7 := by simp [h7]
      cases k with
      | zero =>
        obtain ⟨kept, rest, hp⟩ := failsAfter_zero.mp h
        exact .inl (pushBit_fail h7 hp)
      | succ k =>
        obtain ⟨rest, hp, hrest⟩ := failsAfter_succ.mp h
        obtain ⟨u, hu, -, hplan, hcnt⟩ := pushBit_full_pushed b h7 hp
        exact .inr ⟨u, k, hu, hrest u.ports hplan, by omega⟩
    · obtain ⟨u, hu, -, hports, hcnt⟩ := pushBit_short_pushed b h7
      exact .inr ⟨u, k, hu, by rwa [hports], by omega⟩

/-- With a legal count and OUT, `PUSH_BITS n` is its body on the low n bits of `ARG` (R100). -/
theorem execPushBits_eq {n : Byte} {s : State} (h1 : 1 ≤ n.toNat) (h32 : n.toNat ≤ 32)
    (ho : s.launch.outPresent = true) :
    exec (.pushBits n) s = settle s (pushBits (lowBits n.toNat s.core.arg) s.work) := by
  rw [← bitsMsb_eq_lowBits]
  exact (checkedCount_legal (by simp [countLegal, h1, h32])).trans (checked_ready (by simp) (fun _ => ho) rfl)

/-- Settles O42: bits go through the writer one by one, each into the buffer or with it into a byte of the output; a
count the decoder refuses is refused here too; and the bits reach the byte the sink does not take. -/
theorem pushBitsAppendsArg : Obligations.PushBitsAppendsArg := by
  unfold Obligations.PushBitsAppendsArg
  refine ⟨fun n s h1 h32 ho hw hp => ?_, fun n s hn => ?_, fun n s k h1 h32 ho hf hk => ?_⟩
  · have hcnt := s.core.wbCnt.isLt
    obtain ⟨v, hv, hpv⟩ := pushBits_pushed (lowBits n.toNat s.core.arg) (w := s.work)
      (hp.mono (by rw [lowBits_length, State.work_core]; omega))
    obtain ⟨hcore, hports⟩ := (pushBits_post _ _).of_ok hv
    exact ⟨complete (s.setWork v), by rw [execPushBits_eq h1 h32 ho, hv]; rfl, rfl, hcore, hports.only,
      hpv.clear hw, hpv.bits⟩
  · have hillegal : countLegal n = false := by
      simp only [countLegal, Bool.and_eq_false_iff, decide_eq_false_iff_not]
      omega
    exact ⟨_, checkedCount_illegal hillegal, raise_failed _ s, rfl⟩
  · obtain ⟨v, hv⟩ := pushBits_fails (lowBits n.toNat s.core.arg) (w := s.work) hf
      (by rw [lowBits_length]; exact hk)
    exact ⟨raise .writeFailure (s.setWork v), by rw [execPushBits_eq h1 h32 ho, hv]; rfl, rfl⟩

/-! ### The partial byte (R98, R101) -/

/-- The number that a byte's bits spell is the byte (R7). -/
theorem ofNat_bitsValue_byteBits : ∀ b : Byte, BitVec.ofNat 8 (bitsValue (byteBits b)) = b := by decide +kernel

/-- The Bit Buffer already holds the buffered bits as a byte padded with 0 (R30, R54). -/
theorem byteOf_buffered {c : Core} (h : WriterOk c) : byteOf (buffered c) = c.wbAcc := by
  have hcnt := c.wbCnt.isLt
  have hzeros : (byteBits c.wbAcc).drop c.wbCnt.toNat = List.replicate (8 - c.wbCnt.toNat) false :=
    List.eq_replicate_iff.mpr ⟨by simp [byteBits_length], by simpa using h⟩
  have hlen : (buffered c).length = c.wbCnt.toNat := by
    simp only [buffered, List.length_take, byteBits_length]
    omega
  have hpad : (buffered c ++ List.replicate 8 false).take 8 = byteBits c.wbAcc := by
    rw [List.take_append, hlen, List.take_of_length_le (by omega), List.take_replicate, Nat.min_eq_left (by omega),
      ← hzeros, buffered, List.take_append_drop]
  rw [byteOf, hpad, ofNat_bitsValue_byteBits]

theorem flushPartial_empty {w : Work} (h : w.core.wbCnt = 0) : flushPartial w = .ok () w := if_pos h

/-- The Bit Buffer goes out as it is, and is empty after (R98). -/
theorem flushPartial_ok {w : Work} {rest : List SinkAnswer} (h : w.core.wbCnt ≠ 0)
    (hp : w.ports.sinkPlan = .ok :: rest) :
    flushPartial w =
      .ok () { core := w.core.setWb 0 0
               ports := { w.ports with sinkPlan := rest, outData := w.ports.outData ++ [w.core.wbAcc] } } := by
  rw [flushPartial, if_neg h, emit_ok hp]
  rfl

theorem flushPartial_fail {w : Work} {kept : List Byte} {rest : List SinkAnswer} (h : w.core.wbCnt ≠ 0)
    (hp : w.ports.sinkPlan = .fail kept :: rest) : ∃ v, flushPartial w = .raised .writeFailure v :=
  ⟨_, by rw [flushPartial, if_neg h, emit_fail hp, Res.bind_raised]⟩

/-- Settles O44: the Bit Buffer is the padded byte already, and the sink takes it or raises the error. -/
theorem flushPartialPads : Obligations.FlushPartialPads := by
  unfold Obligations.FlushPartialPads
  have hready {s : State} (ho : s.launch.outPresent = true) :
      exec .flushPartial s = settle s (flushPartial s.work) :=
    checked_ready (by simp) (fun _ => ho) rfl
  refine ⟨by decide, fun s ho hc hw hp => ?_, fun s ho hc => ?_, fun s ho hc hf => ?_⟩
  · obtain ⟨rest, hplan, -⟩ := oksAhead_succ.mp hp
    have hexec := hready ho
    rw [flushPartial_ok (w := s.work) hc hplan] at hexec
    refine ⟨_, hexec, rfl, rfl, rfl, ?_⟩
    rw [byteOf_buffered hw]
    rfl
  · rw [hready ho, flushPartial_empty (w := s.work) hc]
    rfl
  · obtain ⟨kept, rest, hplan⟩ := failsAfter_zero.mp hf
    obtain ⟨v, hv⟩ := flushPartial_fail (w := s.work) hc hplan
    exact ⟨raise .writeFailure (s.setWork v), by rw [hready ho, hv]; rfl, rfl⟩

end Sys2Proof.Machine

/-! ## The header and the bits of `PULL_BITS` (R106, R109, R111, R113, R114) -/

namespace Sys2Proof.Machine

/-! ### Taking bytes of the input (R50) -/

/-- The bytes of IN that are still to be read. -/
def Work.ahead (w : Work) : List Byte := w.ports.inData.drop w.ports.inPos

/-- The next k bytes of IN are taken. -/
def Work.skip (w : Work) (k : Nat) : Work := w.setPorts { w.ports with inPos := w.ports.inPos + k }

@[simp] theorem Work.skip_core (w : Work) (k : Nat) : (w.skip k).core = w.core := rfl

@[simp] theorem Work.skip_ports (w : Work) (k : Nat) :
    (w.skip k).ports = { w.ports with inPos := w.ports.inPos + k } := rfl

@[simp] theorem Work.skip_zero (w : Work) : w.skip 0 = w := rfl

@[simp] theorem Work.skip_skip (w : Work) (j k : Nat) : (w.skip j).skip k = w.skip (j + k) := by
  simp [Work.skip, Work.setPorts, Nat.add_assoc]

@[simp] theorem Work.ahead_closeReader (w : Work) : (closeReader w).ahead = w.ahead := rfl

theorem Work.ahead_skip (w : Work) (k : Nat) : (w.skip k).ahead = w.ahead.drop k := by
  simp [Work.ahead]

theorem Work.ahead_eq_nil {w : Work} : w.ahead = [] ↔ w.ports.inData.length ≤ w.ports.inPos :=
  List.drop_eq_nil_iff

theorem readOr_byte {e : ErrKind} {w : Work} {b : Byte} {bs : List Byte} (h : w.ahead = b :: bs) :
    readOr e w = .ok b (w.skip 1) := by
  have hat : w.ports.inData[w.ports.inPos]? = some b := by
    rw [← List.head?_drop]
    exact congrArg List.head? h
  simp only [readOr, readByte_some hat, Work.skip]

theorem readOr_eos {e : ErrKind} {w : Work} (h : w.ahead = []) : readOr e w = .raised e w := by
  simp only [readOr, readByte_eos (Work.ahead_eq_nil.mp h)]
  rfl

/-! ### The header (R111, R113) -/

theorem readHeader_full (bs : List Byte) {rest : List Byte} {w : Work} (h : w.ahead = bs ++ rest) :
    readHeader bs.length w = .ok bs (w.skip bs.length) := by
  induction bs generalizing w with
  | nil => rfl
  | cons b bs ih =>
    have hnext : (w.skip 1).ahead = bs ++ rest := by rw [Work.ahead_skip, h]; rfl
    simp [readHeader, readOr_byte h, ih hnext, Nat.add_comm 1]

theorem readHeader_short {n : Nat} {w : Work} (h : w.ahead.length < n) :
    readHeader n w = .raised .invalidHeader (w.skip w.ahead.length) := by
  induction n generalizing w with
  | zero => omega
  | succ n ih =>
    cases ha : w.ahead with
    | nil => simp [readHeader, readOr_eos ha]
    | cons b bs =>
      have hnext : (w.skip 1).ahead = bs := by rw [Work.ahead_skip, ha]; rfl
      rw [ha, List.length_cons] at h
      simp [readHeader, readOr_byte ha, ih (w := w.skip 1) (by rw [hnext]; omega), hnext, Nat.add_comm 1]

theorem rdMagic_short {magic : Vector Byte 4} {w : Work} (h : w.ahead.length < 4) :
    rdMagic magic w = .raised .invalidHeader ((closeReader w).skip w.ahead.length) := by
  rw [rdMagic, readHeader_short (w := closeReader w) h, Res.bind_raised, Work.ahead_closeReader]

/-- With four bytes ahead the body reads them, and what it does then their comparison decides. -/
theorem rdMagic_compares {magic : Vector Byte 4} {w : Work} {got rest : List Byte} (h : w.ahead = got ++ rest)
    (hlen : got.length = 4) :
    rdMagic magic w =
      if got = magic.toList then (prime ((closeReader w).skip 4)).bind fun _ w => .ok () (openReader w)
      else .raised .invalidHeader ((closeReader w).skip 4) := by
  have hread := readHeader_full got (w := closeReader w) h
  rw [hlen] at hread
  rw [rdMagic, hread, Res.bind_ok]

theorem rdMagic_differs {magic : Vector Byte 4} {w : Work} (h : 4 ≤ w.ahead.length)
    (hne : w.ahead.take 4 ≠ magic.toList) :
    rdMagic magic w = .raised .invalidHeader ((closeReader w).skip 4) := by
  rw [rdMagic_compares (List.take_append_drop 4 w.ahead).symm (List.length_take_of_le h), if_neg hne]

theorem rdMagic_accepts {magic : Vector Byte 4} {w : Work} {d : List Byte} (h : w.ahead = magic.toList ++ d) :
    rdMagic magic w = (prime ((closeReader w).skip 4)).bind fun _ w => .ok () (openReader w) := by
  rw [rdMagic_compares h (by simp), if_pos rfl]

/-- At the end of the input a byte that is no footer is found when it becomes one (R105, R106). -/
theorem loadWindow_bad_footer {cur la0 : Byte} {w : Work} (h : w.ahead = []) (hf : footerCount la0 = none) :
    ∃ v, loadWindow cur la0 w = .raised .corruptData v ∧ v.ports = w.ports := by
  rw [loadWindow_last (Work.ahead_eq_nil.mp h)]
  simp only [checkFooter, hf]
  exact ⟨_, rfl, rfl⟩

/-- A stream with no data byte or no footer, or of one data byte and no legal footer, cannot prime the reader; all of
it has been read by then (R106). -/
theorem prime_corrupt {w : Work} (h : w.ahead.length < 2 ∨ (w.ahead.length = 2 ∧ ¬ GoodFooter w.ahead)) :
    ∃ v, prime w = .raised .corruptData v ∧ v.ports = (w.skip w.ahead.length).ports := by
  have hnext {b : Byte} {bs : List Byte} (ha : w.ahead = b :: bs) : (w.skip 1).ahead = bs := by
    rw [Work.ahead_skip, ha]
    rfl
  match ha : w.ahead with
  | [] => exact ⟨w, by rw [prime, readOr_eos ha, Res.bind_raised], rfl⟩
  | [cur] =>
    exact ⟨w.skip 1, by rw [prime, readOr_byte ha, Res.bind_ok, readOr_eos (hnext ha), Res.bind_raised], rfl⟩
  | [cur, la0] =>
    have hlast : (w.skip 2).ahead = [] := by rw [Work.ahead_skip, ha]; rfl
    have hbad : footerCount la0 = none := by simpa [ha, GoodFooter] using h
    obtain ⟨v, hv, hports⟩ := loadWindow_bad_footer (cur := cur) hlast hbad
    refine ⟨v, ?_, hports⟩
    rw [prime, readOr_byte ha, Res.bind_ok, readOr_byte (hnext ha), Res.bind_ok, Work.skip_skip, hv]
  | _ :: _ :: _ :: _ => simp [ha] at h

theorem rdMagic_corrupt {magic : Vector Byte 4} {w : Work} {d : List Byte} (h : w.ahead = magic.toList ++ d)
    (hd : d.length < 2 ∨ (d.length = 2 ∧ ¬ GoodFooter d)) :
    ∃ v, rdMagic magic w = .raised .corruptData v ∧ v.ports = (w.skip w.ahead.length).ports := by
  have hrest : ((closeReader w).skip 4).ahead = d := by
    rw [Work.ahead_skip, Work.ahead_closeReader, h]
    exact List.drop_left' (by simp)
  obtain ⟨v, hv, hports⟩ := prime_corrupt (w := (closeReader w).skip 4) (by rwa [hrest])
  refine ⟨v, by rw [rdMagic_accepts h, hv, Res.bind_raised], ?_⟩
  rw [hports, hrest, h]
  simp

/-- `DECOMPRESS` begins with the header check of `RD_MAGIC`, so an error there is the error of either command (R134). -/
theorem exec_header_error {i : Instr} {s : State} {e : ErrKind} {v : Work} {n : Nat}
    (hi : i = .rdMagic ∨ i = .decompress) (hin : s.launch.inPresent = true)
    (hout : i = .decompress → s.launch.outPresent = true) (hv : rdMagic s.launch.magic s.work = .raised e v)
    (hports : v.ports = { s.ports with inPos := n }) :
    ∃ t, exec i s = .next t ∧ Failed e s t ∧ t.ports = { s.ports with inPos := n, draws := t.ports.draws } := by
  refine ⟨raise e (s.setWork v), ?_, rfl, ?_⟩
  · rcases hi with rfl | rfl
    · exact (checked_ready (fun _ => hin) (by simp) rfl).trans (congrArg (settle s) hv)
    · have hd : decompress s.launch.magic s.work = .raised e v := by rw [decompress, hv, Res.bind_raised]
      exact (checked_ready (fun _ => hin) (fun _ => hout rfl) rfl).trans (congrArg (settle s) hd)
  · simp [hports]

/-- Settles O52: the header is read byte by byte and compared after the fourth; only past a marker that agrees are
bytes of the stream taken, and a stream too short or ill-framed has been read to its end when that is found. -/
theorem badHeaderRefused : Obligations.BadHeaderRefused := by
  unfold Obligations.BadHeaderRefused
  intro i s hi hin hout hpos
  have hend : s.ports.inPos + s.work.ahead.length = s.ports.inData.length := by
    simp [Work.ahead, Nat.add_sub_cancel' hpos]
  refine ⟨fun h => ?_, fun h hne => ?_, fun d h hd => ?_⟩
  · exact exec_header_error hi hin hout (rdMagic_short (w := s.work) h) (by simp [hend])
  · exact exec_header_error hi hin hout (rdMagic_differs (w := s.work) h hne) rfl
  · obtain ⟨v, hv, hports⟩ := rdMagic_corrupt (w := s.work) h hd
    exact exec_header_error hi hin hout hv (by simp [hports, hend])

/-! ### The number that bits spell (R109) -/

theorem shiftIn_toNat {v : Word} (b : Bool) (h : v.toNat < 2 ^ 31) : (shiftIn v b).toNat = 2 * v.toNat + b.toNat := by
  have hb : b.toNat < 2 ^ 1 := b.toNat_lt
  simp only [shiftIn, BitVec.toNat_or, BitVec.toNat_shiftLeft, BitVec.toNat_setWidth, BitVec.toNat_ofBool]
  rw [Nat.mod_eq_of_lt (by rw [Nat.shiftLeft_eq]; omega), Nat.mod_eq_of_lt (by omega),
    ← Nat.shiftLeft_add_eq_or_of_lt hb, Nat.shiftLeft_eq]
  omega

/-- While the bits fit into the word, shifting them in spells their number. -/
theorem foldl_shiftIn_toNat (bs : List Bool) {v : Word} {k : Nat} (hv : v.toNat < 2 ^ k) (hk : k + bs.length ≤ 32) :
    (bs.foldl shiftIn v).toNat = bs.foldl (fun n b => 2 * n + b.toNat) v.toNat := by
  induction bs generalizing v k with
  | nil => rfl
  | cons b bs ih =>
    rw [List.length_cons] at hk
    have hb := b.toNat_lt
    have hshift := shiftIn_toNat b (hv.trans_le (Nat.pow_le_pow_right (by decide) (show k ≤ 31 by omega)))
    rw [List.foldl_cons, List.foldl_cons, ← hshift]
    exact ih (k := k + 1) (by rw [hshift, Nat.pow_succ]; omega) (by omega)

theorem shiftIn_bitsValue {bs : List Bool} (h : bs.length ≤ 32) : (bs.foldl shiftIn 0).toNat = bitsValue bs :=
  foldl_shiftIn_toNat bs (k := 0) (by decide) (by omega)

/-! ### `PULL_BITS` (R114) -/

theorem countLegal_iff {n : Byte} : countLegal n = true ↔ 1 ≤ n.toNat ∧ n.toNat ≤ 32 := by
  simp [countLegal]

theorem execPullBits_eq {n : Byte} {s : State} (h1 : 1 ≤ n.toNat) (h32 : n.toNat ≤ 32)
    (hin : s.launch.inPresent = true) (ho : s.core.hdrOk = true) :
    exec (.pullBits n) s = settle s (pullBits n s.work) :=
  (checkedCount_legal (countLegal_iff.mpr ⟨h1, h32⟩)).trans (checked_ready (fun _ => hin) (by simp) ho)

/-- With enough bits left the body takes the first n of them (R109, R114). -/
theorem pullBits_takes {n : Byte} {w : Work} (h : ReaderReady w) (h32 : n.toNat ≤ 32)
    (hn : n.toNat ≤ (bitsLeft w).length) :
    ∃ v, pullBits n w = .ok () v ∧ InputOnly w.ports v.ports ∧ ReaderOk v.core ∧
      v.core.result.toNat = bitsValue ((bitsLeft w).take n.toNat) ∧ bitsLeft v = (bitsLeft w).drop n.toNat := by
  obtain ⟨v, hv, hready, hleft⟩ := readBits_gives _ 0 h (List.take_append_drop n.toNat (bitsLeft w)).symm
  have hlen : ((bitsLeft w).take n.toNat).length = n.toNat := List.length_take_of_le hn
  rw [hlen] at hv
  exact ⟨v.setCore (v.core.setResult (((bitsLeft w).take n.toNat).foldl shiftIn 0)),
    by rw [pullBits, hv, Res.bind_ok], ((readBits_post _ _ _).of_ok hv).ports, hready.cursor,
    shiftIn_bitsValue (hlen.trans_le h32), hleft⟩

/-- Settles O53: the bits come one by one from the reader and are shifted into the value; too few of them end in the
error of `next_bit`, and an illegal count is refused before any is taken. -/
theorem pullBitsTakesValidBits : Obligations.PullBitsTakesValidBits := by
  unfold Obligations.PullBitsTakesValidBits
  refine ⟨fun n s h1 h32 hin ho hc hf hn => ?_, fun n s h1 h32 hin ho hc hf hn => ?_, fun n s hn => ?_⟩
  · obtain ⟨v, hv, hports, hcursor, hresult, hleft⟩ := pullBits_takes (w := s.work) ⟨ho, hc, hf⟩ h32 hn
    exact ⟨complete (s.setWork v), by rw [execPullBits_eq h1 h32 hin ho, hv]; rfl, rfl, pullBits_frame hv, hports,
      hcursor, hresult, hleft⟩
  · obtain ⟨v, hv⟩ := readBits_short (w := s.work) 0 ⟨ho, hc, hf⟩ hn
    have hp : pullBits n s.work = .raised .corruptData v := by rw [pullBits, hv, Res.bind_raised]
    exact ⟨raise .corruptData (s.setWork v), by rw [execPullBits_eq h1 h32 hin ho, hp]; rfl, rfl⟩
  · have hillegal : countLegal n = false := by
      rw [← Bool.not_eq_true, countLegal_iff]
      omega
    exact ⟨_, checkedCount_illegal hillegal, raise_failed _ s, rfl⟩

end Sys2Proof.Machine

/-! ## `SER_TREE` and the description it sends (R116, R117, R120) -/

namespace Sys2Proof.Machine

/-! ### The end of a command that pushes bits (R73, R97) -/

/-- A command that is a push of bits completes while the sink takes the bytes they fill, and adds them to the bits
sent. -/
theorem settle_pushBits {bs : List Bool} {s : State} (hw : WriterOk s.core)
    (hp : OksAhead ((s.core.wbCnt.toNat + bs.length) / 8) s.ports) :
    ∃ t, settle s (pushBits bs s.work) = .next t ∧ Completed s t ∧
      t.core = { s.core with wbAcc := t.core.wbAcc, wbCnt := t.core.wbCnt } ∧ OutputOnly s.ports t.ports ∧
      WriterOk t.core ∧ bitsWritten t = bitsWritten s ++ bs := by
  obtain ⟨v, hv, hpv⟩ := pushBits_pushed bs (w := s.work) hp
  obtain ⟨hcore, hports⟩ := (pushBits_post _ _).of_ok hv
  exact ⟨complete (s.setWork v), by rw [hv]; rfl, rfl, hcore, hports.only, hpv.clear hw, hpv.bits⟩

/-- A command that is a push of bits raises `WRITE_FAILURE` when they fill the byte that the sink refuses (R96). -/
theorem settle_pushBits_fails {bs : List Bool} {s : State} {k : Nat} (h : FailsAfter k s.ports)
    (hk : 8 * (k + 1) ≤ s.core.wbCnt.toNat + bs.length) :
    ∃ t, settle s (pushBits bs s.work) = .next t ∧ Failed .writeFailure s t := by
  obtain ⟨v, hv⟩ := pushBits_fails bs (w := s.work) h hk
  exact ⟨raise .writeFailure (s.setWork v), by rw [hv]; rfl, rfl⟩

/-! ### The serializer on a tree (R116) -/

theorem bitsMsb_eight (b : Byte) : bitsMsb 8 b = byteBits b := rfl

/-- A description has 10·L - 1 bits: ten for each leaf with its internal mark, and one mark fewer than leaves (R120). -/
theorem Tree.bits_length (t : Tree) : t.bits.length + 1 = 10 * t.leaves := by
  induction t with
  | leaf b => rfl
  | node z o hz ho =>
    simp only [Tree.bits, Tree.leaves, List.length_cons, List.length_append]
    omega

/-- What follows a sequence matters only where the sequence goes through. -/
theorem Res.bind_congr {α β : Type} {r : Res α} {k l : α → Work → Res β}
    (h : ∀ a v, r = .ok a v → k a v = l a v) : r.bind k = r.bind l := by
  cases r with
  | ok a v => exact h a v rfl
  | raised e v => rfl
  | stuck f => rfl

/-- The writer's moves leave the arena, and so every tree in it, as it was. -/
theorem WriterMoves.treeAt {w v : Work} (h : WriterMoves w v) (d : Nat) (i : Slot) :
    v.core.treeAt d i = w.core.treeAt d i :=
  treeAt_of_node_eq (by rw [h.core, Core.setWb_node]) d i

theorem ser_leaf {d : Nat} {i : Slot} {w : Work} (hn : i ≠ Config.nullSlot) (hl : (w.core.nodeAt i).leaf = true) :
    ser (d + 1) i w = pushBits (Tree.leaf (w.core.nodeAt i).sym).bits w := by
  rw [ser, if_neg hn, if_pos hl, bitsMsb_eight, Tree.bits]

theorem ser_inner {d : Nat} {i : Slot} {w : Work} (hn : i ≠ Config.nullSlot) (hl : (w.core.nodeAt i).leaf = false) :
    ser (d + 1) i w =
      (pushBit false w).bind fun _ u =>
        (ser d (w.core.nodeAt i).c0 u).bind fun _ v => ser d (w.core.nodeAt i).c1 v := by
  rw [ser, if_neg hn, if_neg (by simp [hl])]

/-- The serializer pushes the description of the tree under its slot: the pushes leave the arena alone, so the subtrees
it meets later are still the ones it began with (R116). -/
theorem ser_eq_pushBits {d : Nat} {i : Slot} {w : Work} {t : Tree} (h : w.core.treeAt d i = some t) :
    ser d i w = pushBits t.bits w := by
  induction d generalizing i w t with
  | zero => cases h
  | succ d ih =>
    rcases treeAt_succ_cases h with ⟨hn, ⟨hl, rfl⟩ | ⟨z, o, hl, hz, ho, rfl⟩⟩
    · exact ser_leaf hn hl
    · rw [ser_inner hn hl, Tree.bits, pushBits]
      refine Res.bind_congr fun _ u hu => ?_
      have hwu := (pushBit_post _ _).of_ok hu
      rw [ih ((hwu.treeAt _ _).trans hz), pushBits_append]
      refine Res.bind_congr fun _ v hv => ?_
      have huv := (pushBits_post _ _).of_ok hv
      exact ih (((hwu.trans huv).treeAt _ _).trans ho)

/-! ### `SER_TREE` (R117) -/

/-- With OUT and a tree in the arena, `SER_TREE` is a push of the tree's description. -/
theorem execSerTree_eq {s : State} {t : Tree} (ho : s.launch.outPresent = true) (hv : s.core.treeV = true)
    (ht : s.core.tree = some t) : exec .serTree s = settle s (pushBits t.bits s.work) := by
  rw [← ser_eq_pushBits (w := s.work) ht]
  exact checked_ready (by simp) (fun _ => ho) hv

/-- Settles O46: the command is a push of the tree's description, and what a push of bits does is known. -/
theorem serTreeWritesDescription : Obligations.SerTreeWritesDescription := by
  unfold Obligations.SerTreeWritesDescription
  refine ⟨fun s tr ho hv ht hw hp => ?_, fun s tr k ho hv ht hf hk => ?_⟩
  · have hcnt := s.core.wbCnt.isLt
    obtain ⟨t, hexec, hdone, hframe, hports, hclear, hbits⟩ :=
      settle_pushBits (bs := tr.bits) hw (hp.mono (by omega))
    exact ⟨t, (execSerTree_eq ho hv ht).trans hexec, hdone, hframe, hports, hclear, hbits,
      Nat.eq_sub_of_add_eq tr.bits_length⟩
  · rw [execSerTree_eq ho hv ht]
    exact settle_pushBits_fails hf hk

end Sys2Proof.Machine

/-! ## The footer, `FINISH` and `ENC_SYM` (R105, R122 to R126, R130) -/

namespace Sys2Proof.Machine

/-! ### The footer (R105, R125, R130) -/

theorem footerCount_two_pow : ∀ k : Fin 8, footerCount (BitVec.ofNat 8 (2 ^ k.val)) = some (8 - k.val) := by decide

/-- Only a power of two is a legal footer (R105). -/
theorem exists_two_pow_of_footerCount :
    ∀ f : Byte, (footerCount f).isSome = true → ∃ k : Fin 8, f = BitVec.ofNat 8 (2 ^ k.val) := by decide +kernel

theorem footerOf_eq_two_pow : ∀ c : BitVec 3, footerOf c = BitVec.ofNat 8 (2 ^ ((8 - c.toNat) % 8)) := by decide

/-- The table of R125 lists the footers by the number of bits buffered. -/
theorem footerTable_eq_footerOf :
    ∀ c : BitVec 3, [0x01, 0x80, 0x40, 0x20, 0x10, 0x08, 0x04, 0x02].getD c.toNat 0 = footerOf c := by decide

/-- Settles O49: a legal footer is a power of two, and the footer after c bits is the one whose exponent counts back
to c. -/
theorem footerCounts : Obligations.FooterCounts := by
  unfold Obligations.FooterCounts
  refine ⟨footerCount_two_pow, fun f h => ?_, fun c => ?_⟩
  · by_contra hf
    obtain ⟨k, hk⟩ := exists_two_pow_of_footerCount f (Option.isSome_iff_ne_none.mpr hf)
    exact h k hk
  · have hc := c.isLt
    rw [footerOf_eq_two_pow, footerCount_two_pow ⟨(8 - c.toNat) % 8, by omega⟩, Option.some.injEq]
    split <;> bv_omega

/-! ### The sink's answers, after some of them are used (R53) -/

theorem OksAhead.drop {m n : Nat} {p q : Ports} (h : OksAhead (m + n) p) (hq : q.sinkPlan = p.sinkPlan.drop m) :
    OksAhead n q := by
  induction m generalizing p with
  | zero => simpa [OksAhead, hq] using h
  | succ m ih =>
    rw [Nat.add_right_comm, oksAhead_succ] at h
    obtain ⟨rest, hp, hrest⟩ := h
    rw [hp, List.drop_succ_cons] at hq
    exact ih (hrest { p with sinkPlan := rest } rfl) hq

theorem FailsAfter.oksAhead {k : Nat} {p : Ports} (h : FailsAfter k p) : OksAhead k p := by
  obtain ⟨kept, rest, hp⟩ := h
  simp [OksAhead, hp]

theorem FailsAfter.drop {k : Nat} {p q : Ports} (h : FailsAfter k p) (hq : q.sinkPlan = p.sinkPlan.drop k) :
    FailsAfter 0 q := by
  obtain ⟨kept, rest, hp⟩ := h
  exact failsAfter_zero.mpr ⟨kept, rest, by rw [hq, hp, List.drop_left' List.length_replicate]⟩

/-! ### `FINISH` (R126) -/

/-- A writer that holds no bit is empty already (R30). -/
theorem setWb_zero_of_wbCnt {c : Core} (h : WriterOk c) (h0 : c.wbCnt = 0) : c.setWb 0 0 = c := by
  have hacc : c.wbAcc = 0 := by
    rw [← byteOf_buffered h, buffered, h0]
    rfl
  rw [Core.setWb, ← h0, ← hacc]

/-- The byte that pads the buffered bits, where there are any (R98). -/
def partialByte (c : Core) : List Byte := if c.wbCnt = 0 then [] else [byteOf (buffered c)]

/-- A sink with an answer to spare takes the partial byte, and the writer is empty after it (R98). -/
theorem flushPartial_takes {n : Nat} {w : Work} (hw : WriterOk w.core) (hp : OksAhead (n + 1) w.ports) :
    ∃ v, flushPartial w = .ok () v ∧ v.core = w.core.setWb 0 0 ∧
      v.ports.outData = w.ports.outData ++ partialByte w.core ∧ OksAhead n v.ports := by
  by_cases h0 : w.core.wbCnt = 0
  · exact ⟨w, flushPartial_empty h0, (setWb_zero_of_wbCnt hw h0).symm, by simp [partialByte, h0],
      hp.mono (Nat.le_succ n)⟩
  · obtain ⟨rest, hplan, hrest⟩ := oksAhead_succ.mp hp
    exact ⟨_, flushPartial_ok h0 hplan, rfl, by rw [partialByte, if_neg h0, byteOf_buffered hw], hrest _ rfl⟩

/-- A byte that the sink takes uses one of its answers (R52, R96). -/
theorem emit_takes (b : Byte) {n : Nat} {w : Work} (h : OksAhead (n + 1) w.ports) :
    ∃ v, emit b w = .ok () v ∧ v.core = w.core ∧ v.ports.outData = w.ports.outData ++ [b] ∧ OksAhead n v.ports := by
  obtain ⟨rest, hplan, hrest⟩ := oksAhead_succ.mp h
  exact ⟨_, emit_ok hplan, rfl, rfl, hrest _ rfl⟩

theorem flushOut_takes {w : Work} (h : OksAhead 1 w.ports) :
    ∃ v, flushOut w = .ok () v ∧ v.core = w.core ∧ v.ports.outData = w.ports.outData := by
  obtain ⟨rest, hplan, -⟩ := oksAhead_succ.mp h
  exact ⟨_, flushOut_ok hplan, rfl, rfl⟩

/-- With a willing sink the body sends the partial byte and the footer, flushes, and leaves the writer empty (R126). -/
theorem finish_takes {w : Work} (hw : WriterOk w.core) (hp : OksAhead 3 w.ports) :
    ∃ v, finish w = .ok () v ∧ v.core = w.core.setWb 0 0 ∧
      v.ports.outData = w.ports.outData ++ partialByte w.core ++ [footerOf w.core.wbCnt] := by
  obtain ⟨u, hu, hcore, hout, hok⟩ := flushPartial_takes hw hp
  obtain ⟨x, hx, hcore', hout', hok'⟩ := emit_takes (footerOf w.core.wbCnt) hok
  obtain ⟨v, hv, hcore'', hout''⟩ := flushOut_takes hok'
  refine ⟨v, ?_, by rw [hcore'', hcore', hcore], by rw [hout'', hout', hout]⟩
  rw [finish, hu, Res.bind_ok, hx, Res.bind_ok, hv]

theorem emit_refused (b : Byte) {w : Work} (h : FailsAfter 0 w.ports) : ∃ v, emit b w = .raised .writeFailure v := by
  obtain ⟨kept, rest, hplan⟩ := failsAfter_zero.mp h
  exact ⟨_, emit_fail hplan⟩

theorem flushOut_refused {w : Work} (h : FailsAfter 0 w.ports) : ∃ v, flushOut w = .raised .writeFailure v := by
  obtain ⟨kept, rest, hplan⟩ := failsAfter_zero.mp h
  exact ⟨_, flushOut_fail hplan⟩

/-- A byte and the flush after it fail with the sink (R126). -/
theorem emit_flushOut_fails (b : Byte) {n : Nat} {w : Work} (h : FailsAfter n w.ports) (hn : n < 2) :
    ∃ v, ((emit b w).bind fun _ v => flushOut v) = .raised .writeFailure v := by
  cases n with
  | zero =>
    obtain ⟨v, hv⟩ := emit_refused b h
    exact ⟨v, by rw [hv, Res.bind_raised]⟩
  | succ n =>
    obtain rfl : n = 0 := by omega
    obtain ⟨rest, hplan, hrest⟩ := failsAfter_succ.mp h
    rw [emit_ok hplan]
    exact flushOut_refused (hrest _ rfl)

/-- The partial byte, if there is one, the footer and the flush: each fails with the sink (R126). -/
theorem finish_fails {n : Nat} {w : Work} (h : FailsAfter n w.ports) (hn : n < if w.core.wbCnt = 0 then 2 else 3) :
    ∃ v, finish w = .raised .writeFailure v := by
  by_cases h0 : w.core.wbCnt = 0
  · rw [if_pos h0] at hn
    rw [finish, flushPartial_empty h0]
    exact emit_flushOut_fails _ h hn
  · rw [if_neg h0] at hn
    cases n with
    | zero =>
      obtain ⟨kept, rest, hplan⟩ := failsAfter_zero.mp h
      obtain ⟨v, hv⟩ := flushPartial_fail h0 hplan
      exact ⟨v, by rw [finish, hv, Res.bind_raised]⟩
    | succ n =>
      obtain ⟨rest, hplan, hrest⟩ := failsAfter_succ.mp h
      rw [finish, flushPartial_ok h0 hplan]
      exact emit_flushOut_fails _ (hrest _ rfl) (by omega)

theorem execFinish_eq {s : State} (ho : s.launch.outPresent = true) : exec .finish s = settle s (finish s.work) :=
  checked_ready (by simp) (fun _ => ho) rfl

/-- Settles O45: the partial byte, the footer and the flush use the sink's answers in turn, and the first that is not
`ok` is the error. -/
theorem finishWritesFooter : Obligations.FinishWritesFooter := by
  unfold Obligations.FinishWritesFooter
  refine ⟨fun s ho hw hp => ?_, fun s n ho hn hf => ?_⟩
  · obtain ⟨v, hv, hcore, hout⟩ := finish_takes (w := s.work) hw hp
    refine ⟨complete (s.setWork v), by rw [execFinish_eq ho, hv]; rfl, rfl, hcore,
      ((finish_post _).of_ok hv).ports.only, ?_⟩
    rw [footerTable_eq_footerOf]
    exact hout
  · obtain ⟨v, hv⟩ := finish_fails (w := s.work) hf hn
    exact ⟨raise .writeFailure (s.setWork v), by rw [execFinish_eq ho, hv]; rfl, rfl⟩

/-! ### `ENC_SYM` (R122, R123) -/

theorem encodeSym_coded {b : Byte} {w : Work} (h : w.core.codeLenOf b ≠ 0) :
    encodeSym b w = pushBits (w.core.codeOf b) w := if_neg h

theorem encodeSym_noCode {b : Byte} {w : Work} (h : w.core.codeLenOf b = 0) :
    encodeSym b w = .raised .noCode w := if_pos h

theorem execEncSym_eq {b : Byte} {s : State} (ho : s.launch.outPresent = true) (hc : s.core.codesV = true) :
    exec (.encSym b) s = settle s (encodeSym b s.work) :=
  checked_ready (by simp) (fun _ => ho) hc

/-- Settles O47: the command is a push of the symbol's code, or an error before any bit; a code that fills a byte is not
empty. -/
theorem encSymPushesCode : Obligations.EncSymPushesCode := by
  unfold Obligations.EncSymPushesCode
  refine ⟨fun b s ho hc hb hw hp => ?_, fun b s ho hc hb => ?_, fun b s k ho hc hf hk => ?_⟩
  · have hcnt := s.core.wbCnt.isLt
    have hlen := (s.core.codeLenOf b).isLt
    rw [execEncSym_eq ho hc, encodeSym_coded (w := s.work) hb]
    exact settle_pushBits hw (hp.mono (by rw [State.work_core, codeOf_length]; omega))
  · rw [execEncSym_eq ho hc, encodeSym_noCode (w := s.work) hb]
    exact ⟨_, rfl, raise_failed _ s, rfl⟩
  · have hcnt := s.core.wbCnt.isLt
    have hb : s.core.codeLenOf b ≠ 0 := fun h0 => by simp [h0] at hk; omega
    rw [execEncSym_eq ho hc, encodeSym_coded (w := s.work) hb]
    exact settle_pushBits_fails hf (by rwa [State.work_core, codeOf_length])

end Sys2Proof.Machine

/-! ## `DEC_STREAM` and the codes of a tree (R127, R129, R131) -/

namespace Sys2Proof.Machine

/-! ### Taking a symbol off a bit sequence (R127) -/

theorem Tree.descend_cons (z o : Tree) (b : Bool) (bs : List Bool) :
    (Tree.node z o).descend (b :: bs) = (if b then o else z).descend bs := by
  cases b <;> rfl

theorem Tree.descend_path {t : Tree} {b : Byte} {p : List Bool} (rest : List Bool) (h : (b, p) ∈ t.paths) :
    t.descend (p ++ rest) = some (b, rest) := by
  induction t generalizing p with
  | leaf a =>
    obtain ⟨rfl, rfl⟩ := Tree.mem_paths_leaf.mp h
    rfl
  | node z o hz ho =>
    obtain ⟨side, q, rfl, hq⟩ := Tree.mem_paths_node.mp h
    rw [List.cons_append, Tree.descend_cons]
    cases side with
    | false => exact hz hq
    | true => exact ho hq

theorem Tree.mem_codes_leaf {a : Byte} {p : Byte × List Bool} : p ∈ (Tree.leaf a).codes ↔ p = (a, [false]) :=
  List.mem_singleton

/-- A code at the front of the bits is what the decoder takes off them. -/
theorem Tree.decode_code {t : Tree} {p : Byte × List Bool} (rest : List Bool) (h : p ∈ t.codes) :
    t.decode (p.2 ++ rest) = some (p.1, rest) := by
  cases t with
  | leaf a =>
    rw [Tree.mem_codes_leaf.mp h]
    rfl
  | node z o => exact Tree.descend_path rest h

theorem Tree.decode_nil (t : Tree) : t.decode [] = none := by cases t <;> rfl

/-- Every code has a bit: the decoder takes nothing off no bits (R94). -/
theorem Tree.code_ne_nil {t : Tree} {p : Byte × List Bool} (h : p ∈ t.codes) : p.2 ≠ [] := by
  intro h0
  have hd := Tree.decode_code [] h
  rw [h0, List.append_nil, Tree.decode_nil] at hd
  cases hd

/-! ### The reader's moves and the arena -/

theorem ReaderMoves.node {w v : Work} (h : ReaderMoves w v) : v.core.node = w.core.node := by rw [h.core]

theorem ReaderMoves.tree {w v : Work} (h : ReaderMoves w v) : v.core.tree = w.core.tree := by
  rw [Core.tree, treeAt_of_node_eq h.node, h.core, Core.tree]

/-- The child of a slot on one side (R25). -/
def Core.child (c : Core) (i : Slot) (side : Bool) : Slot := if side then (c.nodeAt i).c1 else (c.nodeAt i).c0

theorem ReaderMoves.child {w v : Work} (h : ReaderMoves w v) (i : Slot) (side : Bool) :
    v.core.child i side = w.core.child i side := by
  rw [Core.child, Core.child, nodeAt_of_node_eq h.node]

/-- An internal node stands on its two subtrees, one level down. -/
theorem treeAt_child {c : Core} {d : Nat} {i : Slot} {z o : Tree} (h : c.treeAt (d + 1) i = some (.node z o))
    (side : Bool) : c.treeAt d (c.child i side) = some (if side then o else z) := by
  rcases treeAt_succ_cases h with ⟨-, ⟨-, ht⟩ | ⟨z, o, -, hz, ho, ht⟩⟩ <;> cases ht
  cases side with
  | false => exact hz
  | true => exact ho

/-! ### One symbol off the reader (R127) -/

/-- r takes one symbol off the bits the reader has left in w, as f says, or raises `CORRUPT_DATA` where f has none. -/
def TakesSymbol (f : List Bool → Option (Byte × List Bool)) (w : Work) (r : Res Byte) : Prop :=
  r.Post (fun b v => ReaderReady v ∧ f (bitsLeft w) = some (b, bitsLeft v))
    (fun e _ => e = .corruptData ∧ f (bitsLeft w) = none) (fun _ => False)

/-- One level of the walk, once its bit is there. -/
theorem decodeFrom_bit {k : Nat} {i : Slot} {w v : Work} {b : Bool} (h : nextBit w = .ok b v) :
    decodeFrom (k + 1) i w =
      if v.core.child i b = Config.nullSlot then .stuck .arenaNotATree
      else if (v.core.nodeAt (v.core.child i b)).leaf then .ok (v.core.nodeAt (v.core.child i b)).sym v
      else decodeFrom k (v.core.child i b) v := by
  rw [decodeFrom, h, Res.bind_ok]
  rfl

/-- The walk in the arena is the walk down the tree that stands there, while it may take all the bits left. -/
theorem decodeFrom_takes {k d : Nat} {i : Slot} {w : Work} {z o : Tree} (h : ReaderReady w)
    (ht : w.core.treeAt d i = some (.node z o)) (hk : (bitsLeft w).length < k) :
    TakesSymbol (Tree.node z o).descend w (decodeFrom k i w) := by
  induction k generalizing d i w z o with
  | zero => omega
  | succ k ih =>
    rcases nextBit_cases h with ⟨hnil, hend⟩ | ⟨b, v, hv, hready, hbits⟩
    · rw [TakesSymbol, decodeFrom, hend, hnil]
      exact ⟨rfl, rfl⟩
    · have hmoves := (nextBit_post w).of_ok hv
      cases d with
      | zero => cases ht
      | succ d =>
        have hsub : v.core.treeAt d (v.core.child i b) = some (if b then o else z) := by
          rw [treeAt_of_node_eq hmoves.node, hmoves.child]
          exact treeAt_child ht b
        rw [TakesSymbol, decodeFrom_bit hv, hbits, Tree.descend_cons]
        cases d with
        | zero => cases hsub
        | succ d =>
          rcases treeAt_succ_cases hsub with ⟨hn, ⟨hl, hleaf⟩ | ⟨z', o', hl, -, -, hnode⟩⟩
          · rw [if_neg hn, if_pos hl, hleaf]
            exact ⟨hready, rfl⟩
          · rw [if_neg hn, if_neg (by simp [hl]), hnode]
            rw [hnode] at hsub
            rw [hbits, List.length_cons] at hk
            exact ih hready hsub (by omega)

theorem validBits_length_le (d : List Byte) : (validBits d).length ≤ 8 * d.length := by
  fun_induction validBits d with
  | case1 => simp
  | case2 => simp
  | case3 d f => simp [byteBits_length]
  | case4 d e f rest ih =>
    rw [List.length_append, byteBits_length, List.length_cons]
    omega

/-- The bounds of the loops that take bits leave room for every bit left (R78). -/
theorem bitsLeft_length_lt (w : Work) : (bitsLeft w).length < bitBudget w := by
  have hvalid := validBits_length_le (streamFrom w)
  have hstream : (streamFrom w).length ≤ w.ports.bytesLeft + 3 := by
    cases hv : w.core.rbLa1V <;> simp [streamFrom, hv, Ports.bytesLeft]
  simp only [bitsLeft, List.length_drop, bitBudget]
  omega

/-- `decode_one` takes the symbol that stands first under the tree in the arena (R127). -/
theorem decodeOne_takes {w : Work} {tr : Tree} (h : ReaderReady w) (ht : w.core.tree = some tr) :
    TakesSymbol tr.decode w (decodeOne w) := by
  rcases treeAt_succ_cases ht with ⟨hn, ⟨hl, rfl⟩ | ⟨z, o, hl, -, -, rfl⟩⟩
  · rw [TakesSymbol, decodeOne]
    simp only [if_neg hn, if_pos hl]
    rcases nextBit_cases h with ⟨hnil, hend⟩ | ⟨b, v, hv, hready, hbits⟩
    · rw [hend, hnil]
      exact ⟨rfl, rfl⟩
    · rw [hv, hbits, Res.bind_ok, nodeAt_of_node_eq ((nextBit_post w).of_ok hv).node]
      cases b with
      | false => exact ⟨hready, rfl⟩
      | true => exact ⟨rfl, rfl⟩
  · have hone : decodeOne w = decodeFrom (bitBudget w) w.core.root w := by
      rw [decodeOne]
      simp only [if_neg hn, hl, Bool.false_eq_true, if_false]
    rw [hone]
    exact decodeFrom_takes h ht (bitsLeft_length_lt w)

theorem decodeOne_gives {w : Work} {tr : Tree} {b : Byte} {rest : List Bool} (h : ReaderReady w)
    (ht : w.core.tree = some tr) (hd : tr.decode (bitsLeft w) = some (b, rest)) :
    ∃ v, decodeOne w = .ok b v ∧ ReaderReady v ∧ bitsLeft v = rest := by
  have hp := decodeOne_takes h ht
  cases hr : decodeOne w with
  | ok c v =>
    rw [TakesSymbol, hr, hd] at hp
    obtain ⟨hready, hs⟩ := hp
    cases hs
    exact ⟨v, rfl, hready, rfl⟩
  | raised e v =>
    rw [TakesSymbol, hr, hd] at hp
    cases hp.2
  | stuck f =>
    rw [TakesSymbol, hr] at hp
    exact hp.elim

theorem decodeOne_corrupt {w : Work} {tr : Tree} (h : ReaderReady w) (ht : w.core.tree = some tr)
    (hd : tr.decode (bitsLeft w) = none) :
    ∃ v, decodeOne w = .raised .corruptData v ∧ v.ports.outData = w.ports.outData := by
  have hp := decodeOne_takes h ht
  have hmoves := decodeOne_post w
  cases hr : decodeOne w with
  | ok c v =>
    rw [TakesSymbol, hr, hd] at hp
    cases hp.2
  | raised e v =>
    rw [TakesSymbol, hr] at hp
    rw [hr] at hmoves
    obtain ⟨rfl, hm⟩ := hmoves
    exact ⟨v, rfl, by rw [hm.ports]⟩
  | stuck f =>
    rw [TakesSymbol, hr] at hp
    exact hp.elim

/-! ### The passes of `DEC_STREAM` (R129) -/

/-- `RB_END` says that no bit is left (R32, R110). -/
theorem ReaderReady.rbEnd_iff {w : Work} (h : ReaderReady w) : w.core.rbEnd = true ↔ bitsLeft w = [] := by
  obtain ⟨ho, hc, -⟩ := h
  cases hv : w.core.rbLa1V with
  | false =>
    simp only [ReaderOk, ho, hv, if_true, Bool.false_eq_true, if_false, Option.any_eq_true, decide_eq_true_eq] at hc
    obtain ⟨n, hn, hp⟩ := hc
    have hn8 := footerCount_le hn
    have hend : w.core.rbEnd = (w.core.rbPos.toNat == n) := by simp [Core.rbEnd, Core.rbFinal, Core.rbLim, ho, hv, hn]
    rw [hend, beq_iff_eq, bitsLeft_final hv, hn, Option.getD_some, List.drop_eq_nil_iff, List.length_take,
      byteBits_length]
    omega
  | true =>
    simp only [ReaderOk, ho, hv, if_true] at hc
    simp [Core.rbEnd, Core.rbFinal, hv, bitsLeft_more hv (Nat.le_of_lt hc), byteBits_drop _ hc]

theorem ReaderReady.rbEnd_false {w : Work} (h : ReaderReady w) (hb : bitsLeft w ≠ []) : w.core.rbEnd = false := by
  rwa [← Bool.not_eq_true, h.rbEnd_iff]

theorem decodeAll_end {k : Nat} {w : Work} (h : w.core.rbEnd = true) : decodeAll (k + 1) w = .ok () w := if_pos h

theorem decodeAll_symbol {k : Nat} {w : Work} (h : w.core.rbEnd = false) :
    decodeAll (k + 1) w = (decodeOne w).bind fun b u => (emit b u).bind fun _ v => decodeAll k v := by
  rw [decodeAll, if_neg (by simp [h])]

/-- v is w after the bytes xs were decoded and sent, one answer of the sink used for each. -/
structure SentDecoded (tr : Tree) (xs : List Byte) (w v : Work) : Prop where
  ready : ReaderReady v
  tree : v.core.tree = some tr
  out : v.ports.outData = w.ports.outData ++ xs
  plan : v.ports.sinkPlan = w.ports.sinkPlan.drop xs.length

theorem SentDecoded.nil {tr : Tree} {w : Work} (h : ReaderReady w) (ht : w.core.tree = some tr) :
    SentDecoded tr [] w w := ⟨h, ht, (List.append_nil _).symm, rfl⟩

theorem SentDecoded.append {tr : Tree} {xs ys : List Byte} {u v w : Work} (h : SentDecoded tr xs u v)
    (k : SentDecoded tr ys v w) : SentDecoded tr (xs ++ ys) u w := by
  refine ⟨k.ready, k.tree, by rw [k.out, h.out, List.append_assoc], ?_⟩
  rw [k.plan, h.plan, List.drop_drop, List.length_append]

/-- While the bits left begin with a symbol, a pass takes it and sends its byte. -/
theorem decodeAll_of_decode {k : Nat} {w : Work} {tr : Tree} {b : Byte} {rest : List Bool} (h : ReaderReady w)
    (ht : w.core.tree = some tr) (hd : tr.decode (bitsLeft w) = some (b, rest)) :
    ∃ u, decodeAll (k + 1) w = ((emit b u).bind fun _ v => decodeAll k v) ∧ SentDecoded tr [] w u ∧
      bitsLeft u = rest := by
  have hb : bitsLeft w ≠ [] := by
    intro hnil
    rw [hnil, Tree.decode_nil] at hd
    cases hd
  obtain ⟨u, hu, hready, hleft⟩ := decodeOne_gives h ht hd
  have hmoves := (decodeOne_post w).of_ok hu
  refine ⟨u, by rw [decodeAll_symbol (h.rbEnd_false hb), hu, Res.bind_ok], ⟨hready, hmoves.tree.trans ht, ?_, ?_⟩, hleft⟩
  · rw [hmoves.ports, List.append_nil]
  · rw [hmoves.ports, List.length_nil, List.drop_zero]

/-- A byte that the sink takes leaves the reader and the arena as they were. -/
theorem emit_sentDecoded (b : Byte) {tr : Tree} {u : Work} (h : ReaderReady u) (ht : u.core.tree = some tr)
    (hp : OksAhead 1 u.ports) :
    ∃ v, emit b u = .ok () v ∧ SentDecoded tr [b] u v ∧ bitsLeft v = bitsLeft u := by
  obtain ⟨rest, hplan, -⟩ := oksAhead_succ.mp hp
  exact ⟨_, emit_ok hplan, ⟨⟨h.isOpen, h.cursor, h.footer⟩, ht, rfl, by rw [hplan]; rfl⟩, rfl⟩

/-- The codes at the front of the bits left are decoded and sent, a pass for each (R131). -/
theorem decodeAll_codes (ps : List (Byte × List Bool)) {k : Nat} {w : Work} {tr : Tree} {tail : List Bool}
    (h : ReaderReady w) (ht : w.core.tree = some tr) (hps : ∀ p ∈ ps, p ∈ tr.codes)
    (hb : bitsLeft w = ps.flatMap Prod.snd ++ tail) (hp : OksAhead ps.length w.ports)
    (hk : (bitsLeft w).length < k) :
    ∃ j v, decodeAll k w = decodeAll (j + 1) v ∧ SentDecoded tr (ps.map Prod.fst) w v ∧ bitsLeft v = tail := by
  induction ps generalizing k w with
  | nil => exact ⟨k - 1, w, by rw [Nat.sub_add_cancel (Nat.zero_lt_of_lt hk)], .nil h ht, hb⟩
  | cons p ps ih =>
    obtain ⟨hcode, hcodes⟩ := List.forall_mem_cons.mp hps
    have hpos := List.length_pos_iff.mpr (Tree.code_ne_nil hcode)
    obtain ⟨k, rfl⟩ : ∃ n, k = n + 1 := ⟨k - 1, by omega⟩
    rw [List.flatMap_cons, List.append_assoc] at hb
    rw [List.length_cons, Nat.add_comm] at hp
    obtain ⟨u, hu, hsent, hleft⟩ := decodeAll_of_decode (k := k) h ht (by rw [hb]; exact Tree.decode_code _ hcode)
    obtain ⟨v, hv, hsent', hleft'⟩ := emit_sentDecoded p.1 hsent.ready hsent.tree
      (OksAhead.drop (m := 0) (hp.mono (Nat.le_add_right 1 ps.length)) hsent.plan)
    have hone := hsent.append hsent'
    have hlen : (bitsLeft v).length < k := by
      rw [hb, List.length_append] at hk
      rw [hleft', hleft]
      omega
    obtain ⟨j, x, hx, hrest, htail⟩ :=
      ih hone.ready hone.tree hcodes (hleft'.trans hleft) (hp.drop hone.plan) hlen
    exact ⟨j, x, by rw [hu, hv, Res.bind_ok, hx], hone.append hrest, htail⟩

/-! ### `DEC_STREAM` (R129, R131) -/

/-- The loop moves the reader and the output, nothing else of the ports (R129). -/
theorem decodeAll_ports {k : Nat} {w v : Work} (h : decodeAll k w = .ok () v) : InOutOnly w.ports v.ports := by
  induction k generalizing w with
  | zero => cases h
  | succ k ih =>
    cases he : w.core.rbEnd with
    | true => rw [decodeAll_end he] at h; cases h; rfl
    | false =>
      rw [decodeAll_symbol he] at h
      obtain ⟨b, u, hu, h⟩ := Res.bind_eq_ok.mp h
      obtain ⟨⟨⟩, x, hx, h⟩ := Res.bind_eq_ok.mp h
      rw [ih h, ((emit_post _ _).of_ok hx).ports.only, ((decodeOne_post _).of_ok hu).ports]

theorem decStream_ports {w v : Work} (h : decStream w = .ok () v) : InOutOnly w.ports v.ports := by
  obtain ⟨⟨⟩, u, hu, h⟩ := Res.bind_eq_ok.mp h
  rw [((flushOut_post _).of_ok h).1.ports.only, decodeAll_ports hu]

section Stream

variable {w : Work} {tr : Tree} {ps : List (Byte × List Bool)}

/-- Where nothing but codes is left, the bytes are sent and flushed, and the reader is at its end (R131). -/
theorem decStream_writes (h : ReaderReady w) (ht : w.core.tree = some tr) (hps : ∀ p ∈ ps, p ∈ tr.codes)
    (hb : bitsLeft w = ps.flatMap Prod.snd) (hp : OksAhead (ps.length + 1) w.ports) :
    ∃ v, decStream w = .ok () v ∧ v.core.rbEnd = true ∧ v.ports.outData = w.ports.outData ++ ps.map Prod.fst := by
  obtain ⟨j, u, hu, hsent, hleft⟩ := decodeAll_codes ps (tail := []) h ht hps (by rw [hb, List.append_nil])
    (hp.mono (Nat.le_succ _)) (bitsLeft_length_lt w)
  have hend := hsent.ready.rbEnd_iff.mpr hleft
  obtain ⟨v, hv, hcore, hout⟩ := flushOut_takes (w := u) (hp.drop (by rw [hsent.plan, List.length_map]))
  refine ⟨v, ?_, by rw [hcore, hend], by rw [hout, hsent.out]⟩
  rw [decStream, hu, decodeAll_end hend, Res.bind_ok, hv]

/-- Where bits that begin with no code follow the codes, the bytes before them are sent (R131). -/
theorem decStream_corrupt {tail : List Bool} (h : ReaderReady w) (ht : w.core.tree = some tr)
    (hps : ∀ p ∈ ps, p ∈ tr.codes) (hb : bitsLeft w = ps.flatMap Prod.snd ++ tail) (hne : tail ≠ [])
    (hd : tr.decode tail = none) (hp : OksAhead ps.length w.ports) :
    ∃ v, decStream w = .raised .corruptData v ∧ v.ports.outData = w.ports.outData ++ ps.map Prod.fst := by
  obtain ⟨j, u, hu, hsent, hleft⟩ := decodeAll_codes ps h ht hps hb hp (bitsLeft_length_lt w)
  obtain ⟨v, hv, hout⟩ := decodeOne_corrupt hsent.ready hsent.tree (by rwa [hleft])
  refine ⟨v, ?_, by rw [hout, hsent.out]⟩
  rw [decStream, hu, decodeAll_symbol (hsent.ready.rbEnd_false (by rwa [hleft])), hv, Res.bind_raised, Res.bind_raised]

/-- The sink refuses the byte of the code that follows the codes of ps (R96). -/
theorem decStream_write_fails {p : Byte × List Bool} {rest : List Bool} (h : ReaderReady w)
    (ht : w.core.tree = some tr) (hps : ∀ q ∈ ps, q ∈ tr.codes) (hcode : p ∈ tr.codes)
    (hb : bitsLeft w = ps.flatMap Prod.snd ++ (p.2 ++ rest)) (hf : FailsAfter ps.length w.ports) :
    ∃ v, decStream w = .raised .writeFailure v := by
  obtain ⟨j, u, hu, hsent, hleft⟩ := decodeAll_codes ps h ht hps hb hf.oksAhead (bitsLeft_length_lt w)
  obtain ⟨x, hx, hsent', -⟩ := decodeAll_of_decode (k := j) hsent.ready hsent.tree
    (by rw [hleft]; exact Tree.decode_code rest hcode)
  obtain ⟨v, hv⟩ := emit_refused p.1 (w := x) (hf.drop (by rw [(hsent.append hsent').plan]; simp))
  exact ⟨v, by rw [decStream, hu, hx, hv, Res.bind_raised, Res.bind_raised]⟩

/-- The sink refuses the flush after the last byte (R129). -/
theorem decStream_flush_fails (h : ReaderReady w) (ht : w.core.tree = some tr) (hps : ∀ p ∈ ps, p ∈ tr.codes)
    (hb : bitsLeft w = ps.flatMap Prod.snd) (hf : FailsAfter ps.length w.ports) :
    ∃ v, decStream w = .raised .writeFailure v := by
  obtain ⟨j, u, hu, hsent, hleft⟩ := decodeAll_codes ps (tail := []) h ht hps (by rw [hb, List.append_nil])
    hf.oksAhead (bitsLeft_length_lt w)
  obtain ⟨v, hv⟩ := flushOut_refused (w := u) (hf.drop (by rw [hsent.plan, List.length_map]))
  exact ⟨v, by rw [decStream, hu, decodeAll_end (hsent.ready.rbEnd_iff.mpr hleft), Res.bind_ok, hv]⟩

/-- One of the bytes cannot be written, or all can and the flush after them fails (R96, R129). -/
theorem decStream_fails {tail : List Bool} {k : Nat} (h : ReaderReady w) (ht : w.core.tree = some tr)
    (hps : ∀ p ∈ ps, p ∈ tr.codes) (hb : bitsLeft w = ps.flatMap Prod.snd ++ tail) (hf : FailsAfter k w.ports)
    (hk : k < ps.length ∨ (k = ps.length ∧ tail = [])) : ∃ v, decStream w = .raised .writeFailure v := by
  rcases hk with hk | ⟨rfl, rfl⟩
  · obtain ⟨pre, p, post, rfl, rfl⟩ : ∃ pre p post, ps = pre ++ p :: post ∧ pre.length = k :=
      ⟨ps.take k, ps[k], ps.drop (k + 1), by simp, List.length_take_of_le hk.le⟩
    obtain ⟨hpre, hpost⟩ := List.forall_mem_append.mp hps
    exact decStream_write_fails (rest := post.flatMap Prod.snd ++ tail) h ht hpre (List.forall_mem_cons.mp hpost).1
      (by rw [hb]; simp) hf
  · exact decStream_flush_fails h ht hps (by rw [hb, List.append_nil]) hf

end Stream

theorem execDecStream_eq {s : State} (hi : s.launch.inPresent = true) (ho : s.launch.outPresent = true)
    (hr : s.core.hdrOk = true) (hv : s.core.treeV = true) : exec .decStream s = settle s (decStream s.work) :=
  checked_ready (fun _ => hi) (fun _ => ho) (by rw [Core.canDecode, hr, hv]; rfl)

/-- Settles O56: the loop decodes and sends the codes one by one, by induction on their list; what follows them, or the
sink's answer, then decides how it ends. -/
theorem decStreamWritesDecoded : Obligations.DecStreamWritesDecoded := by
  unfold Obligations.DecStreamWritesDecoded
  intro s tr ps hi ho hr hv ht hc hg hps
  have hready : ReaderReady s.work := ⟨hr, hc, hg⟩
  rw [execDecStream_eq hi ho hr hv]
  refine ⟨fun hp hb => ?_, fun tail hp hne hd hb => ?_, fun tail k hf hb hk => ?_⟩
  · obtain ⟨v, hv, hend, hout⟩ := decStream_writes hready ht hps hb hp
    exact ⟨complete (s.setWork v), by rw [hv]; rfl, rfl, decStream_frame hv, decStream_ports hv, hend, hout⟩
  · obtain ⟨v, hv, hout⟩ := decStream_corrupt hready ht hps hb hne hd hp
    exact ⟨raise .corruptData (s.setWork v), by rw [hv]; rfl, rfl, hout⟩
  · obtain ⟨v, hv⟩ := decStream_fails hready ht hps hb hf hk
    exact ⟨raise .writeFailure (s.setWork v), by rw [hv]; rfl, rfl⟩

end Sys2Proof.Machine

/-! ## The tree that `BUILD_TREE` leaves, with its links (R25, R26) -/

namespace Sys2Proof.Machine

/-- Every node is joined to its children as R25 says, and they stand in lower slots; a node with no parent is on
side 0. -/
structure Joined (c : Core) : Prop where
  top : ∀ i : Slot, (c.nodeAt i).parent = Config.nullSlot → (c.nodeAt i).side = false
  leaf : ∀ i : Slot, (c.nodeAt i).valid = true → (c.nodeAt i).leaf = true →
    (c.nodeAt i).c0 = Config.nullSlot ∧ (c.nodeAt i).c1 = Config.nullSlot
  down : ∀ i : Slot, (c.nodeAt i).valid = true → (c.nodeAt i).leaf = false → ∀ side,
    (c.nodeAt ((c.nodeAt i).child side)).parent = i ∧ (c.nodeAt ((c.nodeAt i).child side)).side = side ∧
      ((c.nodeAt i).child side).toNat < i.toNat

theorem Joined.of_node_eq {c d : Core} (h : Joined c) (hn : d.node = c.node) : Joined d := by
  obtain ⟨h1, h2, h3⟩ := h
  constructor <;> simpa only [nodeAt_of_node_eq hn]

theorem joined_leaves {c : Core} {syms : List Byte} : Joined (syms.foldl placeLeaf c.clearNodes) := by
  have hnode {i : Slot} (hv : ((syms.foldl placeLeaf c.clearNodes).nodeAt i).valid = true) :
      ∃ b, (syms.foldl placeLeaf c.clearNodes).nodeAt i = leafNode c.clearNodes b := by
    obtain ⟨b, hb, rfl⟩ := placeLeaves_valid.mp hv
    exact ⟨b, placeLeaves_nodeAt_leafSlot hb⟩
  refine ⟨fun i _ => ?_, fun i hv _ => ?_, fun i hv hl => ?_⟩
  · cases hv : ((syms.foldl placeLeaf c.clearNodes).nodeAt i).valid with
    | true =>
      obtain ⟨b, hb⟩ := hnode hv
      rw [hb]
      rfl
    | false =>
      rw [grove_leaves.empty i hv]
      rfl
  · obtain ⟨b, hb⟩ := hnode hv
    rw [hb]
    exact ⟨rfl, rfl⟩
  · rw [placeLeaves_leaf hv] at hl
    cases hl

section Links

variable {syms : List Byte} {k : Nat} {work : List Slot} {c : Core} {a b p i : Slot}

theorem Grove.slot_lt (h : Grove syms k c) (hi : (c.nodeAt i).valid = true) : i.toNat < 256 + k := by
  by_cases h256 : 256 ≤ i.toNat
  · exact (h.innerValid i h256).mp hi
  · omega

theorem Grove.inner_ge (h : Grove syms k c) (hi : (c.nodeAt i).valid = true) (hl : (c.nodeAt i).leaf = false) :
    256 ≤ i.toNat := by
  by_contra hlt
  obtain ⟨b, rfl⟩ := exists_leafSlot_eq (show i.toNat < 256 by omega)
  rw [(h.leafNode b ((h.leafValid b).mp hi)).1] at hl
  cases hl

theorem mergeInto_nodeAt_fst (hn : a ≠ Config.nullSlot) (hp : a ≠ p) (hb : a ≠ b) :
    (mergeInto c p a b).nodeAt a = { c.nodeAt a with parent := p, side := false } := by
  rw [mergeInto, adopt_nodeAt_other hb, adopt, nodeAt_setNode_same _ _ _ hn, nodeAt_setNode_other _ _ hp]

theorem mergeInto_nodeAt_snd (hn : b ≠ Config.nullSlot) (hp : b ≠ p) (ha : b ≠ a) :
    (mergeInto c p a b).nodeAt b = { c.nodeAt b with parent := p, side := true } := by
  rw [mergeInto, adopt, nodeAt_setNode_same _ _ _ hn, adopt_nodeAt_other ha, nodeAt_setNode_other _ _ hp]

/-- A merge joins the two nodes to the new one, each on its side (R84). -/
theorem mergeInto_joins (hp : (c.nodeAt p).valid = false) (ha : (c.nodeAt a).valid = true)
    (hb : (c.nodeAt b).valid = true) (hab : a ≠ b) (side : Bool) :
    ((mergeInto c p a b).nodeAt (if side then b else a)).parent = p ∧
      ((mergeInto c p a b).nodeAt (if side then b else a)).side = side := by
  cases side with
  | false =>
    rw [if_neg Bool.false_ne_true, mergeInto_nodeAt_fst (ne_null_of_valid ha) (ne_of_valid_of_free hp ha) hab]
    exact ⟨rfl, rfl⟩
  | true =>
    rw [if_pos rfl, mergeInto_nodeAt_snd (ne_null_of_valid hb) (ne_of_valid_of_free hp hb) hab.symm]
    exact ⟨rfl, rfl⟩

/-- A merge of two roots leaves every other node's children as they were. -/
theorem Forest.mergeInto_nodeAt_child (f : Forest syms k work c) (hp : (c.nodeAt p).valid = false) (ha : a ∈ work)
    (hb : b ∈ work) {j : Slot} (hc : IsChild c i j) : (mergeInto c p a b).nodeAt j = c.nodeAt j := by
  have hne {r : Slot} (hr : r ∈ work) : j ≠ r := by
    rintro rfl
    exact f.noParent _ hr i hc
  exact mergeInto_nodeAt_other (ne_of_valid_of_free hp (f.grove.child_valid hc)) (hne ha) (hne hb)

/-- After a merge a node with no parent is on side 0: of the nodes that the merge writes only the new one has none. -/
theorem Joined.merge_top (h : Joined c) (hnull : p ≠ Config.nullSlot) (hp : (c.nodeAt p).valid = false)
    (ha : (c.nodeAt a).valid = true) (hb : (c.nodeAt b).valid = true) (hab : a ≠ b)
    (hi : ((mergeInto c p a b).nodeAt i).parent = Config.nullSlot) : ((mergeInto c p a b).nodeAt i).side = false := by
  have hap := ne_of_valid_of_free hp ha
  have hbp := ne_of_valid_of_free hp hb
  by_cases hip : i = p
  · rw [hip, mergeInto_nodeAt_parent hnull hap.symm hbp.symm]
    rfl
  by_cases hia : i = a
  · rw [hia, mergeInto_nodeAt_fst (ne_null_of_valid ha) hap hab]
  by_cases hib : i = b
  · rw [hib, mergeInto_nodeAt_snd (ne_null_of_valid hb) hbp hab.symm] at hi
    exact absurd hi hnull
  rw [mergeInto_nodeAt_other hip hia hib] at hi ⊢
  exact h.top i hi

/-- A merge of two roots keeps the arena joined. -/
theorem Joined.merge (h : Joined c) (f : Forest syms k work c) (ha : a ∈ work) (hb : b ∈ work.erase a)
    (hk : k < 255) (hp : p = BitVec.ofNat 9 (256 + k)) : Joined (mergeInto c p a b) := by
  obtain ⟨hba, hbw⟩ := f.nodup.mem_erase_iff.mp hb
  obtain ⟨hnull, hfree⟩ := f.grove.next_slot_free hk hp
  have hva := (f.roots a ha).1
  have hvb := (f.roots b hbw).1
  have hnew : (mergeInto c p a b).nodeAt p = mergedNode c a b :=
    mergeInto_nodeAt_parent hnull (ne_of_valid_of_free hfree hva).symm (ne_of_valid_of_free hfree hvb).symm
  refine ⟨fun i => h.merge_top hnull hfree hva hvb hba.symm, fun i hv hl => ?_, fun i hv hl side => ?_⟩
  · by_cases hip : i = p
    · rw [hip, hnew] at hl
      cases hl
    · obtain ⟨_, _, e⟩ := mergeInto_nodeAt (c := c) a b hip
      rw [e] at hv hl ⊢
      exact h.leaf i hv hl
  · by_cases hip : i = p
    · have hlt : (if side then b else a).toNat < p.toNat := by
        rw [hp, slot_toNat (by omega)]
        cases side
        exacts [f.grove.slot_lt hva, f.grove.slot_lt hvb]
      obtain ⟨hparent, hside⟩ := mergeInto_joins hfree hva hvb hba.symm side
      rw [hip, hnew]
      exact ⟨hparent, hside, hlt⟩
    · obtain ⟨_, _, e⟩ := mergeInto_nodeAt (c := c) a b hip
      rw [e] at hv hl ⊢
      have hchild : IsChild c i ((c.nodeAt i).child side) := ⟨hv, hl, by cases side; exacts [.inl rfl, .inr rfl]⟩
      have hsame := f.mergeInto_nodeAt_child hfree ha hbw hchild
      obtain ⟨hparent, hside, hlt⟩ := h.down i hv hl side
      exact ⟨(congrArg Node.parent hsame).trans hparent, (congrArg Node.side hsame).trans hside, hlt⟩

theorem Joined.mergeAll {m : Nat} (h : Joined c) (f : Forest syms k work c) (hs : syms.length ≤ 256) :
    Joined (mergeAll m k work c).1 := by
  fun_induction Machine.mergeAll m k work c with
  | case1 => exact h
  | case2 => exact h
  | case3 => exact h
  | case4 m k x y rest c work a left b p ih =>
    have ha : a ∈ work := firstOf_mem c x (y :: rest)
    have hb : b ∈ left := by
      obtain ⟨z, zs, hz⟩ := List.exists_cons_of_length_eq_add_one
        (show left.length = rest.length + 1 by rw [List.length_erase_of_mem ha]; rfl)
      simp only [b, hz]
      exact firstOf_mem c z zs
    have hk : k < 255 := by
      have hc : k + (rest.length + 2) = syms.length := f.count
      omega
    exact ih (h.merge f ha hb hk rfl) (f.merge ha hb hk rfl)

theorem buildTree_joined {w v : Work} (h : present w.core ≠ []) (hv : buildTree w = .ok () v) : Joined v.core := by
  simp only [buildTree, if_neg h] at hv
  cases hv
  refine (Joined.mergeAll (m := (present w.core).length) joined_leaves
    (forest_leaves (c := { w.core with treeV := false, codesV := false }) (present_nodup w.core))
    (present_length_le w.core)).of_node_eq rfl

/-! ### The one tree that is left -/

/-- Every node but the root has the parent its own link names, an internal node in a higher slot (R25, R85). -/
theorem Joined.parent {r : Slot} (h : Joined c) (f : Forest syms k [r] c) (hi : (c.nodeAt i).valid = true)
    (hr : i ≠ r) :
    (c.nodeAt (c.nodeAt i).parent).valid = true ∧ (c.nodeAt (c.nodeAt i).parent).leaf = false ∧
      (c.nodeAt (c.nodeAt i).parent).child (c.nodeAt i).side = i ∧ i.toNat < (c.nodeAt i).parent.toNat := by
  obtain ⟨q, ⟨hq, hl, hc⟩, -⟩ := f.oneParent i hi (by simpa using hr)
  obtain ⟨side, hside⟩ : ∃ side, (c.nodeAt q).child side = i := by
    rcases hc with hc | hc
    · exact ⟨false, hc⟩
    · exact ⟨true, hc⟩
  obtain ⟨hp, hs, hlt⟩ := h.down q hq hl side
  rw [hside] at hp hs hlt
  rw [hp, hs]
  exact ⟨hq, hl, hside, hlt⟩

theorem Joined.linked (h : Joined c) (f : Forest syms k [c.root] c) (hi : (c.nodeAt i).valid = true) :
    linked c i = true := by
  refine Bool.and_eq_true_iff.mpr ⟨?_, ?_⟩
  · by_cases hr : i = c.root
    · have hroot := (f.roots i (by simp [hr])).2
      simp [← hr, hroot, h.top i hroot]
    · obtain ⟨hv, hl, hc, -⟩ := h.parent f hi hr
      have hn := ne_null_of_valid hv
      cases hs : (c.nodeAt i).side <;> simp_all [Node.child]
  · cases hl : (c.nodeAt i).leaf with
    | true => simp [h.leaf i hi hl]
    | false =>
      obtain ⟨hv0, hv1, -⟩ := f.grove.children i hi hl
      have h0 := h.down i hi hl false
      have h1 := h.down i hi hl true
      have hn0 := ne_null_of_valid hv0
      have hn1 := ne_null_of_valid hv1
      simp_all [Node.child]

/-- A climb goes through ever higher slots, and the internal nodes' are the 255 from 256 on (R85, R95). -/
theorem Joined.climb {n : Nat} (h : Joined c) (f : Forest syms k [c.root] c) (hi : (c.nodeAt i).valid = true)
    (hn : 511 ≤ max i.toNat 255 + n) : ∃ sides, climb c n i = some sides := by
  have hnull := ne_null_of_valid hi
  induction n generalizing i with
  | zero => exact absurd (BitVec.eq_of_toNat_eq (show i.toNat = Config.nullSlot.toNat by bv_omega)) hnull
  | succ n ih =>
    by_cases hr : i = c.root
    · exact ⟨[], climb_succ_root hnull (f.roots i (by simp [hr])).2⟩
    · obtain ⟨hv, hl, -, hlt⟩ := h.parent f hi hr
      have hge := f.grove.inner_ge hv hl
      have hpn := ne_null_of_valid hv
      obtain ⟨sides, hs⟩ := ih hv (by omega) hpn
      exact ⟨_, climb_succ_child hnull hpn hs⟩

theorem Grove.mem_leafSlots (h : Grove syms k c) : i ∈ leafSlots c ↔ ∃ b ∈ syms, leafSlot b = i := by
  rw [Machine.mem_leafSlots]
  constructor
  · rintro ⟨hv, hl⟩
    have hlt : i.toNat < 256 := by
      by_contra hge
      rw [h.innerNode i (by omega) hv] at hl
      cases hl
    obtain ⟨b, rfl⟩ := exists_leafSlot_eq hlt
    exact ⟨b, (h.leafValid b).mp hv, rfl⟩
  · rintro ⟨b, hb, rfl⟩
    exact ⟨(h.leafValid b).mpr hb, (h.leafNode b hb).1⟩

theorem Grove.leafSlots_length (h : Grove syms k c) (hs : syms.Nodup) : (leafSlots c).length = syms.length := by
  rw [← List.length_map (f := leafSlot)]
  refine ((List.perm_ext_iff_of_nodup (leafSlots_nodup c) (hs.map leafSlot_injective)).mpr fun i => ?_).length_eq
  rw [h.mem_leafSlots, List.mem_map]

/-- `BUILD_TREE` leaves the tree of the counts in the arena, joined as R25 says, with a leaf for every symbol
present. -/
theorem buildTree_builtArena {w : Work} (h : present w.core ≠ []) :
    ∃ v tr, buildTree w = .ok () v ∧ v.ports = w.ports ∧ treeOf (fun b => (w.core.freqOf b).toNat) = some tr ∧
      BuiltArena v.core tr ∧ ∀ b, leafSlot b ∈ leafSlots v.core ↔ b ∈ present w.core := by
  obtain ⟨v, e, hv, hports, htree, hwhole⟩ := buildTree_wholeTree h
  obtain ⟨v', hv', hnleaf, f⟩ := buildTree_forest h
  obtain rfl : v = v' := by
    rw [hv] at hv'
    cases hv'
    rfl
  have hj := buildTree_joined h hv
  have hlen := present_length_le w.core
  have hmem (b : Byte) : leafSlot b ∈ leafSlots v.core ↔ b ∈ present w.core :=
    f.grove.mem_leafSlots.trans ⟨fun ⟨a, ha, hab⟩ => leafSlot_injective hab ▸ ha, fun hb => ⟨b, hb, rfl⟩⟩
  refine ⟨v, e.tree, hv, hports, htree, ?_, hmem⟩
  exact
    { rootValid := (f.roots _ List.mem_cons_self).1
      linked := fun i hi => hj.linked f hi
      tree := treeAt_mono hwhole.holds.tree (hwhole.leaves.trans_le hlen)
      climbs := fun i hi => hj.climb f (mem_leafSlots.mp hi).1 (by omega)
      count := by rw [hnleaf, f.grove.leafSlots_length (present_nodup _), slot_toNat (by omega)]
      atSymbol := fun i hi => by
        obtain ⟨b, hb, rfl⟩ := f.grove.mem_leafSlots.mp hi
        rw [(f.grove.leafNode b hb).2] }

end Links

end Sys2Proof.Machine

/-! ## `COMPRESS` up to its codes: the counts of the input, their tree, its codes (R82, R84, R91, R133) -/

namespace Sys2Proof.Machine

/-! ### The tree of a set of counts -/

theorem insertEntry_length (e : Entry) (es : List Entry) : (insertEntry e es).length = es.length + 1 := by
  rw [(insertEntry_perm e es).length_eq, List.length_cons]

/-- With a bound that reaches, the merges of a worklist that holds an entry leave one tree. -/
theorem mergeSorted_isSome {n : Nat} {es : List Entry} (hes : es ≠ []) (hn : es.length ≤ n + 1) :
    (mergeSorted n es).isSome = true := by
  fun_induction mergeSorted n es with
  | case1 => exact absurd rfl hes
  | case2 => rfl
  | case3 a b rest => simp at hn
  | case4 n a b rest ih =>
    have hlen := insertEntry_length (mergeEntries a b) rest
    rw [List.length_cons, List.length_cons] at hn
    exact ih (List.ne_nil_of_length_pos (by omega)) (by omega)

/-- Counts of which one is not 0 have a tree (R84). -/
theorem treeOf_isSome {count : Byte → Nat} {b : Byte} (hb : count b ≠ 0) : (treeOf count).isSome = true := by
  have hmem : b ∈ allSymbols.filter fun b => count b != 0 :=
    List.mem_filter.mpr ⟨mem_allSymbols b, bne_iff_ne.mpr hb⟩
  have hlen := (leafEntries_perm count (allSymbols.filter fun b => count b != 0)).length_eq
  rw [List.length_map] at hlen
  have hpos := List.length_pos_of_mem hmem
  exact mergeSorted_isSome (es := leafEntries count (allSymbols.filter fun b => count b != 0))
    (List.ne_nil_of_length_pos (by omega)) (by omega)

/-- Every non-empty input has a file (R136). -/
theorem fileOf_isSome (m : Vector Byte 4) {x : List Byte} (hx : x ≠ []) : (fileOf m x).isSome = true := by
  obtain ⟨b, hb⟩ := List.exists_mem_of_ne_nil x hx
  rw [fileOf, Option.isSome_map]
  exact treeOf_isSome (Nat.ne_of_gt (List.count_pos_iff.mpr hb))

/-! ### The first four commands -/

/-- `Rewind`, `FREQ_CLEAR`, `FREQ_COUNT`, `BUILD_TREE`, `GEN_CODES`: the part of `COMPRESS` that writes nothing
(R133). -/
def makeCodes (w : Work) : Res Unit :=
  (freqClear (rewind w)).bind fun _ w => (freqCount w).bind fun _ w => (buildTree w).bind fun _ w => genCodes w

/-- Every count 0 and the input at its first byte: what `COMPRESS` counts from. -/
def countStart (w : Work) : Work := (rewind w).setCore { w.core with freq := Vector.replicate 256 0 }

theorem makeCodes_eq (w : Work) :
    makeCodes w = (freqCount (countStart w)).bind fun _ w => (buildTree w).bind fun _ w => genCodes w := rfl

@[simp] theorem countStart_ports (w : Work) : (countStart w).ports = { w.ports with inPos := 0 } := rfl

@[simp] theorem countStart_freqOf (w : Work) (b : Byte) : (countStart w).core.freqOf b = 0 := by
  simp [countStart, Core.freqOf]

/-- With room for every count the input is counted, all of it. -/
theorem freqCount_countStart {w : Work} (hfit : ∀ b : Byte, w.ports.inData.count b < 2 ^ 32) :
    ∃ v, freqCount (countStart w) = .ok () v ∧ v.ports = { w.ports with inPos := w.ports.inData.length } ∧
      ∀ b : Byte, (v.core.freqOf b).toNat = w.ports.inData.count b := by
  obtain ⟨v, hv, hports, hfreq⟩ := freqCount_ok (w := countStart w) (Nat.zero_le _)
    fun b => by simpa using hfit b
  exact ⟨v, hv, hports, fun b => by simpa using hfreq b⟩

theorem mem_present_of_counts {c : Core} {x : List Byte} (h : ∀ b : Byte, (c.freqOf b).toNat = x.count b) {b : Byte} :
    b ∈ present c ↔ b ∈ x := by
  rw [mem_present, ← List.count_pos_iff, ← h b, Nat.pos_iff_ne_zero, Ne, Ne, ← BitVec.toNat_inj]
  rfl

/-- v is w with the input counted, and with the tree of the counts and its codes in the core. -/
structure CodesMade (w : Work) (tr : Tree) (v : Work) : Prop where
  ports : v.ports = { w.ports with inPos := w.ports.inData.length }
  counts : ∀ b : Byte, (v.core.freqOf b).toNat = w.ports.inData.count b
  tree : v.core.tree = some tr
  small : tr.internals ≤ 255
  codes : ∀ b, v.core.codeOf b = tr.codeOf b
  coded : ∀ b ∈ w.ports.inData, (b, tr.codeOf b) ∈ tr.codes
  wbAcc : v.core.wbAcc = w.core.wbAcc
  wbCnt : v.core.wbCnt = w.core.wbCnt

/-- A symbol with a leaf has its code from the tree. -/
theorem BuiltArena.mem_codes {c : Core} {tr : Tree} (h : BuiltArena c tr) {b : Byte} (hb : leafSlot b ∈ leafSlots c) :
    (b, tr.codeOf b) ∈ tr.codes := by
  obtain ⟨p, hp⟩ := h.mem_leafSlots_iff.mp hb
  cases tr with
  | leaf a =>
    obtain ⟨rfl, -⟩ := Tree.mem_paths_leaf.mp hp
    rw [Tree.codeOf_leaf_same]
    exact Tree.mem_codes_leaf.mpr rfl
  | node z o =>
    rw [h.codeOf_path hp]
    exact hp

theorem makeCodes_made {w : Work} (hne : w.ports.inData ≠ []) (hfit : ∀ b : Byte, w.ports.inData.count b < 2 ^ 32) :
    ∃ v tr, makeCodes w = .ok () v ∧ treeOf (fun b => w.ports.inData.count b) = some tr ∧ CodesMade w tr v := by
  obtain ⟨u, hu, huports, hcounts⟩ := freqCount_countStart hfit
  obtain ⟨a, ha⟩ := List.exists_mem_of_ne_nil _ hne
  obtain ⟨x, tr, hx, hxports, htree, harena, hleaves⟩ :=
    buildTree_builtArena (List.ne_nil_of_mem ((mem_present_of_counts hcounts).mpr ha))
  obtain ⟨v, hv, hvports, hcodes⟩ := genCodes_enters harena
  have huf := freqCount_frame hu
  have hxf := buildTree_frame hx
  have hvf := genCodes_frame hv
  refine ⟨v, tr, by rw [makeCodes_eq, hu, Res.bind_ok, hx, Res.bind_ok, hv], ?_, ?_⟩
  · simpa only [hcounts] using htree
  · exact
      { ports := hvports.trans (hxports.trans huports)
        counts := fun b => by
          rw [← hcounts b, hvf, hxf]
          rfl
        tree := by
          rw [Core.tree, treeAt_of_node_eq (c := x.core) (by rw [hvf]), hvf]
          exact harena.tree
        small := harena.internals_le
        codes := fun b => (hcodes b).codeOf_eq
        coded := fun b hb => harena.mem_codes ((hleaves b).mpr ((mem_present_of_counts hcounts).mpr hb))
        wbAcc := by
          rw [hvf, hxf, huf]
          rfl
        wbCnt := by
          rw [hvf, hxf, huf]
          rfl }

theorem makeCodes_empty {w : Work} (h : w.ports.inData = []) :
    ∃ v, makeCodes w = .raised .emptyInput v ∧ v.ports = { w.ports with inPos := 0 } := by
  obtain ⟨u, hu, hports, hcounts⟩ := freqCount_countStart (w := w) (by simp [h])
  have hnone : present u.core = [] := List.eq_nil_iff_forall_not_mem.mpr fun b hb => by
    rw [mem_present_of_counts hcounts, h] at hb
    cases hb
  have hbuild : buildTree u = .raised .emptyInput u := if_pos hnone
  exact ⟨u, by rw [makeCodes_eq, hu, Res.bind_ok, hbuild, Res.bind_raised], by rw [hports, h]; rfl⟩

theorem makeCodes_overflow {w : Work} {pre post : List Byte} {b : Byte} (h : w.ports.inData = pre ++ b :: post)
    (hfit : ∀ c : Byte, pre.count c < 2 ^ 32) (hfull : pre.count b = 2 ^ 32 - 1) :
    ∃ v, makeCodes w = .raised .countOverflow v ∧ v.ports = { w.ports with inPos := pre.length + 1 } := by
  obtain ⟨v, hv, hports⟩ := freqCount_overflow (w := countStart w) (pre := pre) (post := post) h
    (fun c => by simpa using hfit c) (by simpa using hfull)
  exact ⟨v, by rw [makeCodes_eq, hv, Res.bind_raised], by simp [hports]⟩

end Sys2Proof.Machine

/-! ## The file that `COMPRESS` writes (R96, R133, R135, R136) -/

namespace Sys2Proof.Machine

/-! ### Packed bits and their footer (R125, R136) -/

theorem packBytes_length (k : Nat) (bs : List Bool) : (packBytes k bs).length = k := by
  induction k generalizing bs with
  | zero => rfl
  | succ k ih => rw [packBytes, List.length_cons, ih]

theorem pack_length (bs : List Bool) : (pack bs).length = (bs.length + 7) / 8 := packBytes_length _ _

theorem byteOf_byteBits (b : Byte) : byteOf (byteBits b) = b := ofNat_bitsValue_byteBits b

theorem pack_byte (b : Byte) (bs : List Bool) : pack (byteBits b ++ bs) = b :: pack bs := by
  have hlen : ((byteBits b ++ bs).length + 7) / 8 = (bs.length + 7) / 8 + 1 := by
    rw [List.length_append, byteBits_length]
    omega
  rw [pack, hlen, packBytes, List.take_left' (byteBits_length b), List.drop_left' (byteBits_length b), byteOf_byteBits,
    pack]

/-- Whole bytes at the front of a bit sequence are packed as they are. -/
theorem pack_bytes (zs : List Byte) (bs : List Bool) : pack (zs.flatMap byteBits ++ bs) = zs ++ pack bs := by
  induction zs with
  | nil => rfl
  | cons z zs ih => rw [List.flatMap_cons, List.append_assoc, pack_byte, ih, List.cons_append]

theorem pack_one {bs : List Bool} (h : bs ≠ []) (h8 : bs.length ≤ 8) : pack bs = [byteOf bs] := by
  have hpos := List.length_pos_iff.mpr h
  rw [pack, show (bs.length + 7) / 8 = 1 by omega, packBytes, packBytes, List.take_of_length_le h8]

theorem wbCnt_toNat_eq_zero {c : Core} : c.wbCnt.toNat = 0 ↔ c.wbCnt = 0 :=
  ⟨fun h => BitVec.eq_of_toNat_eq h, fun h => congrArg BitVec.toNat h⟩

theorem buffered_length (c : Core) : (buffered c).length = c.wbCnt.toNat := by
  have := c.wbCnt.isLt
  rw [buffered, List.length_take, byteBits_length]
  omega

/-- The partial byte is the last byte of the packed bits (R98). -/
theorem pack_buffered (c : Core) : pack (buffered c) = partialByte c := by
  have hlt := c.wbCnt.isLt
  have hlen := buffered_length c
  by_cases h0 : c.wbCnt = 0
  · rw [partialByte, if_pos h0, List.eq_nil_of_length_eq_zero (hlen.trans (wbCnt_toNat_eq_zero.mpr h0))]
    rfl
  · rw [partialByte, if_neg h0, pack_one _ (by omega)]
    exact List.ne_nil_of_length_pos (hlen ▸ Nat.pos_of_ne_zero (mt wbCnt_toNat_eq_zero.mp h0))

/-- All bits sent, packed: the bytes written and the partial byte. -/
theorem pack_bitsSent (w : Work) : pack (bitsSent w) = w.ports.outData ++ partialByte w.core := by
  rw [bitsSent, pack_bytes, pack_buffered]

theorem flatMap_byteBits_length (zs : List Byte) : (zs.flatMap byteBits).length = 8 * zs.length := by
  induction zs with
  | nil => rfl
  | cons z zs ih =>
    rw [List.flatMap_cons, List.length_append, byteBits_length, ih, List.length_cons]
    omega

/-- The footer counts the bits of the last byte, whatever whole bytes stand before them. -/
theorem footer_bytes (zs : List Byte) (bs : List Bool) : footer (zs.flatMap byteBits ++ bs) = footer bs := by
  rw [footer, footer, List.length_append, flatMap_byteBits_length, Nat.mul_add_mod]

/-- The bits of a file before its footer: the marker's, then those of the tree and the payload (R135). -/
def sentBits (magic : Vector Byte 4) (t : Tree) (x : List Byte) : List Bool :=
  magic.toList.flatMap byteBits ++ (t.bits ++ x.flatMap t.codeOf)

theorem fileWith_eq (magic : Vector Byte 4) (t : Tree) (x : List Byte) :
    fileWith magic t x = pack (sentBits magic t x) ++ [footer (sentBits magic t x)] := by
  rw [sentBits, pack_bytes, footer_bytes]
  rfl

/-! ### Sequences that send bits (R96, R97) -/

/-- v is w after the bits bs went through the writer, with the input perhaps read on. -/
structure Sent (bs : List Bool) (w v : Work) : Prop extends Pushed bs w v where
  ports : InOutOnly w.ports v.ports

/-- r is the end of a sequence that sends the bits bs from w on: they go through while the sink takes the bytes they
fill, and the first of these that it refuses raises `WRITE_FAILURE`. -/
structure Sends (bs : List Bool) (w : Work) (r : Res Unit) : Prop where
  takes : OksAhead ((w.core.wbCnt.toNat + bs.length) / 8) w.ports → ∃ v, r = .ok () v ∧ Sent bs w v
  fails : ∀ k, FailsAfter k w.ports → 8 * (k + 1) ≤ w.core.wbCnt.toNat + bs.length →
    ∃ v, r = .raised .writeFailure v

/-- A sink that fails only after the bytes of bs takes them all, and fails that many answers later. -/
theorem Sends.takes_before_failure {bs : List Bool} {w : Work} {r : Res Unit} {k : Nat} (h : Sends bs w r)
    (hf : FailsAfter k w.ports) (hk : w.core.wbCnt.toNat + bs.length < 8 * (k + 1)) :
    ∃ v, r = .ok () v ∧ Sent bs w v ∧ FailsAfter (k - (w.core.wbCnt.toNat + bs.length) / 8) v.ports := by
  obtain ⟨v, hv, hs⟩ := h.takes (hf.oksAhead.mono (by omega))
  obtain ⟨kept, rest, hp⟩ := hf
  refine ⟨v, hv, hs, kept, rest, ?_⟩
  rw [hs.plan, hp, List.drop_append_of_le_length (by rw [List.length_replicate]; omega), List.drop_replicate]

theorem Sends.nil (w : Work) : Sends [] w (.ok () w) := by
  refine ⟨fun _ => ⟨w, rfl, .nil w, rfl⟩, fun k _ hk => ?_⟩
  have := w.core.wbCnt.isLt
  rw [List.length_nil] at hk
  omega

theorem Sends.bind {xs ys : List Bool} {w : Work} {r : Res Unit} {k : Unit → Work → Res Unit} (h : Sends xs w r)
    (hk : ∀ v, r = .ok () v → Sends ys v (k () v)) : Sends (xs ++ ys) w (r.bind k) := by
  refine ⟨fun hp => ?_, fun n hf hn => ?_⟩
  · rw [List.length_append] at hp
    obtain ⟨u, hu, hs⟩ := h.takes (hp.mono (by omega))
    have hcnt := hs.count
    obtain ⟨v, hv, hs'⟩ := (hk u hu).takes (OksAhead.drop (hp.mono (by omega)) hs.plan)
    exact ⟨v, by rw [hu, Res.bind_ok, hv], hs.toPushed.append hs'.toPushed, by rw [hs'.ports, hs.ports]⟩
  · rw [List.length_append] at hn
    by_cases hx : 8 * (n + 1) ≤ w.core.wbCnt.toNat + xs.length
    · obtain ⟨v, hv⟩ := h.fails n hf hx
      exact ⟨v, by rw [hv, Res.bind_raised]⟩
    · obtain ⟨u, hu, hs, hf'⟩ := h.takes_before_failure hf (by omega)
      have hcnt := hs.count
      obtain ⟨v, hv⟩ := (hk u hu).fails _ hf' (by omega)
      exact ⟨v, by rw [hu, Res.bind_ok, hv]⟩

/-- Reading on, and the reader's own state, are nothing to what a sequence sends. -/
theorem Sends.of_reader {bs : List Bool} {w : Work} {r : Res Unit} (c : Core) (n : Nat)
    (h : Sends bs { core := c.setWb w.core.wbAcc w.core.wbCnt, ports := { w.ports with inPos := n } } r) :
    Sends bs w r := by
  refine ⟨fun hp => ?_, h.fails⟩
  obtain ⟨v, hv, hs⟩ := h.takes hp
  exact ⟨v, hv, ⟨hs.bits, hs.clear, hs.plan, hs.count⟩, hs.ports⟩

theorem pushBits_sends (bs : List Bool) (w : Work) : Sends bs w (pushBits bs w) := by
  refine ⟨fun hp => ?_, fun k hf hk => pushBits_fails bs hf hk⟩
  obtain ⟨v, hv, hpv⟩ := pushBits_pushed bs hp
  exact ⟨v, hv, hpv, by rw [((pushBits_post _ _).of_ok hv).ports.only]⟩

/-- With no bit buffered a byte of its own is sent as its eight bits. -/
theorem emit_sends (b : Byte) {w : Work} (h0 : w.core.wbCnt = 0) : Sends (byteBits b) w (emit b w) := by
  refine ⟨fun hp => ?_, fun k hf hk => ?_⟩
  · obtain ⟨rest, hplan, -⟩ := oksAhead_succ.mp (hp.mono (m := 1) (by simp [h0, byteBits_length]))
    refine ⟨_, emit_ok hplan, ⟨?_, id, ?_, ?_⟩, rfl⟩
    · simp [bitsSent, buffered, h0]
    · simp [h0, hplan, byteBits_length]
    · simp [h0, byteBits_length]
  · rw [h0, byteBits_length] at hk
    obtain rfl : k = 0 := by
      change 8 * (k + 1) ≤ 0 + 8 at hk
      omega
    exact emit_refused b hf

theorem emitAll_sends (bs : List Byte) {w : Work} (h0 : w.core.wbCnt = 0) :
    Sends (bs.flatMap byteBits) w (emitAll bs w) := by
  induction bs generalizing w with
  | nil => exact .nil w
  | cons b bs ih => exact (emit_sends b h0).bind fun v hv => ih (by rw [emit_core hv, h0])

theorem serTree_sends {w : Work} {t : Tree} (h : w.core.tree = some t) : Sends t.bits w (serTree w) := by
  have hser : serTree w = pushBits t.bits w := ser_eq_pushBits h
  rw [hser]
  exact pushBits_sends t.bits w

/-! ### `ENC_STREAM` (R124) -/

theorem Work.next_of_ahead {w : Work} {b : Byte} {xs : List Byte} (h : w.ahead = b :: xs) :
    w.ports.inData[w.ports.inPos]? = some b := by
  rw [← List.head?_drop]
  exact congrArg List.head? h

/-- The loop sends the codes of the bytes ahead, one after the other (R124). -/
theorem forBytes_encodeSym_sends {xs : List Byte} {w : Work} (h : w.ahead = xs)
    (hc : ∀ b ∈ xs, w.core.codeLenOf b ≠ 0) :
    Sends (xs.flatMap w.core.codeOf) w (forBytes encodeSym (xs.length + 1) w) := by
  induction xs generalizing w with
  | nil =>
    rw [List.length_nil, forBytes_eos (Work.ahead_eq_nil.mp h)]
    exact .nil w
  | cons b xs ih =>
    obtain ⟨hb, hxs⟩ := List.forall_mem_cons.mp hc
    rw [List.length_cons, forBytes_byte (Work.next_of_ahead h), List.flatMap_cons]
    have hfirst : Sends (w.core.codeOf b) w (encodeSym b (w.skip 1)) := by
      rw [encodeSym_coded (w := w.skip 1) hb]
      exact .of_reader w.core (w.ports.inPos + 1) (pushBits_sends _ (w.skip 1))
    refine hfirst.bind fun v hv => ?_
    obtain ⟨-, hm⟩ := (encodeSym_post _ _).of_ok hv
    have hahead : v.ahead = xs := by
      rw [Work.ahead, hm.ports.only]
      change (w.skip 1).ahead = xs
      rw [Work.ahead_skip, h]
      rfl
    have hcode : v.core.codeOf = w.core.codeOf := by
      rw [hm.core]
      rfl
    rw [← hcode]
    exact ih hahead fun c hx => by
      rw [hm.core]
      exact hxs c hx

theorem encStream_sends {w : Work} (hc : ∀ b ∈ w.ports.inData, w.core.codeLenOf b ≠ 0) :
    Sends (w.ports.inData.flatMap w.core.codeOf) w (encStream w) :=
  .of_reader (closeReader w).core 0 (forBytes_encodeSym_sends (w := rewind (closeReader w)) rfl hc)

/-- A loop that goes through has read all the input, when no pass moves in the input by itself (R12). -/
theorem forBytes_reads_all {body : Byte → Work → Res Unit}
    (hb : ∀ {b w v}, body b w = .ok () v → OutMoves w.ports v.ports) {k : Nat} {w v : Work}
    (hpos : w.ports.inPos ≤ w.ports.inData.length) (h : forBytes body k w = .ok () v) :
    v.ports.inPos = w.ports.inData.length := by
  induction k generalizing w with
  | zero => cases h
  | succ k ih =>
    rcases readByte_cases w.ports with ⟨hl, -⟩ | ⟨hl, -⟩
    · rw [forBytes_byte (List.getElem?_eq_getElem hl)] at h
      obtain ⟨⟨⟩, u, hu, h⟩ := Res.bind_eq_ok.mp h
      have hports := (hb hu).only
      have := ih (w := u) (by rw [hports]; exact hl) h
      rwa [hports] at this
    · rw [forBytes_eos hl] at h
      cases h
      exact Nat.le_antisymm hpos hl

theorem encStream_reads_all {w v : Work} (h : encStream w = .ok () v) : v.ports.inPos = w.ports.inData.length :=
  forBytes_reads_all (w := rewind (closeReader w)) (fun hv => ((encodeSym_post _ _).of_ok hv).2.ports) (Nat.zero_le _) h

/-! ### `FINISH` (R125, R126) -/

/-- `FINISH` asks the sink for no answer that it does not need: the partial byte's only where there is one (R126). -/
theorem finish_takes_exact {w : Work} (hw : WriterOk w.core)
    (hp : OksAhead ((partialByte w.core).length + 2) w.ports) :
    ∃ v, finish w = .ok () v ∧ v.core = w.core.setWb 0 0 ∧
      v.ports.outData = w.ports.outData ++ partialByte w.core ++ [footerOf w.core.wbCnt] := by
  by_cases h0 : w.core.wbCnt = 0
  · rw [partialByte, if_pos h0] at hp ⊢
    obtain ⟨u, hu, hcore, hout, hok⟩ := emit_takes (footerOf w.core.wbCnt) hp
    obtain ⟨v, hv, hcore', hout'⟩ := flushOut_takes hok
    refine ⟨v, ?_, by rw [hcore', hcore, setWb_zero_of_wbCnt hw h0], by rw [hout', hout, List.append_nil]⟩
    rw [finish, flushPartial_empty h0, Res.bind_ok, hu, Res.bind_ok, hv]
  · rw [partialByte, if_neg h0] at hp
    exact finish_takes hw hp

section Framed

variable {bs : List Bool} {w : Work} {r : Res Unit}

/-- After bits sent from an empty writer on, the bytes written and the partial byte are the packed bits. -/
theorem Sent.packed {v : Work} (h : Sent bs w v) (h0 : w.core.wbCnt = 0) :
    v.ports.outData ++ partialByte v.core = w.ports.outData ++ pack bs := by
  have hnone : buffered w.core = [] :=
    List.eq_nil_of_length_eq_zero ((buffered_length _).trans (wbCnt_toNat_eq_zero.mpr h0))
  rw [← pack_bitsSent, h.bits, bitsSent, hnone, List.append_nil, pack_bytes]

theorem Sent.wbCnt_toNat {v : Work} (h : Sent bs w v) (h0 : w.core.wbCnt = 0) :
    v.core.wbCnt.toNat = bs.length % 8 := by
  rw [h.count, wbCnt_toNat_eq_zero.mpr h0, Nat.zero_add]

/-- The partial byte is there when the bits do not fill whole bytes. -/
theorem Sent.partialByte_length {v : Work} (h : Sent bs w v) (h0 : w.core.wbCnt = 0) :
    bs.length / 8 + (partialByte v.core).length = (pack bs).length := by
  have hcnt := h.wbCnt_toNat h0
  rw [pack_length, partialByte]
  split
  · have := wbCnt_toNat_eq_zero.mpr ‹v.core.wbCnt = 0›
    rw [List.length_nil]
    omega
  · have := mt wbCnt_toNat_eq_zero.mp ‹¬ v.core.wbCnt = 0›
    rw [List.length_singleton]
    omega

theorem Sent.footerOf_eq {v : Work} (h : Sent bs w v) (h0 : w.core.wbCnt = 0) : footerOf v.core.wbCnt = footer bs := by
  rw [footerOf_eq_two_pow, h.wbCnt_toNat h0, footer]

/-- Bits sent from an empty writer on, and then `FINISH`: the output is the packed bits and their footer (R136). -/
theorem Sends.finish_takes (h : Sends bs w r) (hw : WriterOk w.core) (h0 : w.core.wbCnt = 0)
    (hp : OksAhead ((pack bs).length + 2) w.ports) :
    ∃ u v, r = .ok () u ∧ finish u = .ok () v ∧ v.core = u.core.setWb 0 0 ∧ InOutOnly w.ports v.ports ∧
      v.ports.inPos = u.ports.inPos ∧ v.ports.outData = w.ports.outData ++ pack bs ++ [footer bs] := by
  have hlen := pack_length bs
  have hz := wbCnt_toNat_eq_zero.mpr h0
  obtain ⟨u, hu, hs⟩ := h.takes (hp.mono (by omega))
  have hplan := hs.plan
  rw [hz, Nat.zero_add] at hplan
  obtain ⟨v, hv, hcore, hout⟩ := finish_takes_exact (hs.clear hw)
    (OksAhead.drop (by rwa [← Nat.add_assoc, hs.partialByte_length h0]) hplan)
  have hports := ((finish_post u).of_ok hv).ports.only
  refine ⟨u, v, hu, hv, hcore, by rw [hports, hs.ports], by rw [hports], ?_⟩
  rw [hout, hs.packed h0, hs.footerOf_eq h0]

/-- Any byte of the packed bits, the footer or the flush that the sink refuses raises `WRITE_FAILURE` (R96, R126). -/
theorem Sends.finish_fails {k : Nat} (h : Sends bs w r) (h0 : w.core.wbCnt = 0) (hf : FailsAfter k w.ports)
    (hk : k < (pack bs).length + 2) : ∃ v, (r.bind fun _ v => finish v) = .raised .writeFailure v := by
  have hlen := pack_length bs
  have hz := wbCnt_toNat_eq_zero.mpr h0
  by_cases hb : 8 * (k + 1) ≤ bs.length
  · obtain ⟨v, hv⟩ := h.fails k hf (by omega)
    exact ⟨v, by rw [hv, Res.bind_raised]⟩
  · obtain ⟨u, hu, hs, hf'⟩ := h.takes_before_failure hf (by omega)
    have hpart := hs.partialByte_length h0
    rw [hu, Res.bind_ok]
    refine Machine.finish_fails hf' ?_
    by_cases hu0 : u.core.wbCnt = 0
    · rw [partialByte, if_pos hu0, List.length_nil] at hpart
      rw [if_pos hu0]
      omega
    · rw [partialByte, if_neg hu0, List.length_singleton] at hpart
      rw [if_neg hu0]
      omega

end Framed

/-! ### `COMPRESS` (R133, R136) -/

/-- `WR_MAGIC`, `SER_TREE`, `ENC_STREAM`: the part of `COMPRESS` that sends the file but its last bytes (R133). -/
def sendFile (magic : Vector Byte 4) (w : Work) : Res Unit :=
  (wrMagic magic w).bind fun _ w => (serTree w).bind fun _ w => encStream w

theorem compress_eq (magic : Vector Byte 4) (w : Work) :
    compress magic w = (makeCodes w).bind fun _ w => (sendFile magic w).bind fun _ w => finish w := by
  simp only [compress, makeCodes, sendFile, Res.bind_assoc]

/-- With the codes made, what is sent is the bits of the file (R135). -/
theorem CodesMade.sendFile_sends {w v : Work} {tr : Tree} (h : CodesMade w tr v) (magic : Vector Byte 4)
    (h0 : w.core.wbCnt = 0) : Sends (sentBits magic tr w.ports.inData) v (sendFile magic v) := by
  refine (emitAll_sends magic.toList (h.wbCnt.trans h0)).bind fun u hu => ?_
  have hvu := (emitAll_post _ _).of_ok hu
  refine (serTree_sends (by rw [Core.tree, hvu.treeAt, hvu.core]; exact h.tree)).bind fun x hx => ?_
  have hvx := hvu.trans ((ser_post _ _ _).of_ok hx)
  have hcode : x.core.codeOf = tr.codeOf := funext fun b => by
    rw [hvx.core]
    exact h.codes b
  have hin : x.ports.inData = w.ports.inData := by rw [hvx.ports.only, h.ports]
  rw [← hcode, ← hin]
  refine encStream_sends fun b hb => ?_
  have hne := Tree.code_ne_nil (h.coded b (hin ▸ hb))
  rw [← hcode, ← List.length_pos_iff, codeOf_length] at hne
  exact fun hz => by simp [hz] at hne

theorem sendFile_reads_all {magic : Vector Byte 4} {w v : Work} (h : sendFile magic w = .ok () v) :
    v.ports.inPos = w.ports.inData.length := by
  obtain ⟨⟨⟩, u, hu, h⟩ := Res.bind_eq_ok.mp h
  obtain ⟨⟨⟩, x, hx, h⟩ := Res.bind_eq_ok.mp h
  rw [encStream_reads_all h, (((emitAll_post _ _).of_ok hu).trans ((ser_post _ _ _).of_ok hx)).ports.only]

/-- Sending the file leaves the counts and the arena as they were. -/
theorem sendFile_keeps {magic : Vector Byte 4} {w v : Work} (h : sendFile magic w = .ok () v) :
    v.core.freq = w.core.freq ∧ v.core.tree = w.core.tree := by
  obtain ⟨⟨⟩, u, hu, h⟩ := Res.bind_eq_ok.mp h
  obtain ⟨⟨⟩, x, hx, h⟩ := Res.bind_eq_ok.mp h
  have hwx := ((emitAll_post _ _).of_ok hu).trans ((ser_post _ _ _).of_ok hx)
  have hv := encStream_frame h
  constructor
  · rw [hv, hwx.core]
    rfl
  · rw [Core.tree, treeAt_of_node_eq (c := w.core) (by rw [hv, hwx.core]; rfl), hv, hwx.core]
    rfl

section Compress

variable {magic : Vector Byte 4} {w : Work} {f : List Byte}

/-- v is w after the file f of its input was written. -/
structure Compressed (f : List Byte) (w v : Work) : Prop where
  ports : InOutOnly w.ports v.ports
  out : v.ports.outData = w.ports.outData ++ f
  read : v.ports.inPos = w.ports.inData.length
  tree : v.core.tree = treeOf fun b => w.ports.inData.count b
  counts : ∀ b : Byte, (v.core.freqOf b).toNat = w.ports.inData.count b

/-- The codes of an input that has a file are made under the tree of that file. -/
theorem makeCodes_of_file (hfit : ∀ b : Byte, w.ports.inData.count b < 2 ^ 32)
    (hf : fileOf magic w.ports.inData = some f) :
    ∃ v tr, makeCodes w = .ok () v ∧ CodesMade w tr v ∧ treeOf (fun b => w.ports.inData.count b) = some tr ∧
      f = fileWith magic tr w.ports.inData := by
  have hne : w.ports.inData ≠ [] := by
    intro h
    rw [h] at hf
    cases hf
  obtain ⟨v, tr, hv, htree, hm⟩ := makeCodes_made hne hfit
  rw [fileOf, htree, Option.map_some, Option.some.injEq] at hf
  exact ⟨v, tr, hv, hm, htree, hf.symm⟩

theorem compress_writes (h0 : w.core.wbCnt = 0) (hw : WriterOk w.core)
    (hfit : ∀ b : Byte, w.ports.inData.count b < 2 ^ 32) (hf : fileOf magic w.ports.inData = some f)
    (hp : OksAhead (f.length + 1) w.ports) : ∃ v, compress magic w = .ok () v ∧ Compressed f w v := by
  obtain ⟨u, tr, hu, hm, htree, rfl⟩ := makeCodes_of_file hfit hf
  rw [fileWith_eq] at hp ⊢
  obtain ⟨x, v, hx, hv, hcore, hports, hpos, hout⟩ := (hm.sendFile_sends magic h0).finish_takes
    (by rw [WriterOk, hm.wbAcc, hm.wbCnt]; exact hw) (hm.wbCnt.trans h0)
    (OksAhead.drop (m := 0) (hp.mono (by simp)) (by rw [hm.ports]; rfl))
  obtain ⟨hfreq, hkeep⟩ := sendFile_keeps hx
  refine ⟨v, by rw [compress_eq, hu, Res.bind_ok, hx, Res.bind_ok, hv], ?_⟩
  exact
    { ports := by rw [hports, hm.ports]
      out := by rw [hout, hm.ports, List.append_assoc]
      read := by rw [hpos, sendFile_reads_all hx, hm.ports]
      tree := by
        rw [htree, ← hm.tree, ← hkeep, Core.tree, treeAt_of_node_eq (c := x.core) (by rw [hcore]; rfl), hcore]
        rfl
      counts := fun b => by
        simp only [← hm.counts, Core.freqOf, hcore, Core.setWb_freq, hfreq] }

theorem compress_fails {k : Nat} (h0 : w.core.wbCnt = 0) (hfit : ∀ b : Byte, w.ports.inData.count b < 2 ^ 32)
    (hf : fileOf magic w.ports.inData = some f) (hp : FailsAfter k w.ports) (hk : k ≤ f.length) :
    ∃ v, compress magic w = .raised .writeFailure v := by
  obtain ⟨u, tr, hu, hm, htree, rfl⟩ := makeCodes_of_file hfit hf
  rw [fileWith_eq, List.length_append, List.length_singleton] at hk
  rw [compress_eq, hu, Res.bind_ok]
  exact (hm.sendFile_sends magic h0).finish_fails (hm.wbCnt.trans h0) (by rw [hm.ports]; exact hp) (by omega)

end Compress

theorem execCompress_eq {s : State} (hi : s.launch.inPresent = true) (ho : s.launch.outPresent = true)
    (h0 : s.core.wbCnt = 0) : exec .compress s = settle s (compress s.launch.magic s.work) :=
  checked_ready (fun _ => hi) (fun _ => ho) (by rw [Core.writerEmpty, h0]; rfl)

/-- Settles O57: the counts, the tree and the codes are made before anything is sent; the marker, the tree's description
and the codes are then one sequence of bits sent from an empty writer, and `FINISH` frames it. -/
theorem compressWritesFile : Obligations.CompressWritesFile := by
  unfold Obligations.CompressWritesFile
  refine ⟨fun s f hi ho h0 hw hfit hf hp => ?_, fun s hi ho h0 hin => ?_,
    fun s pre b post hi ho h0 hin hfit hfull => ?_, fun s f k hi ho h0 hfit hf hp hk => ?_, fun m x => fileOf_isSome m⟩
  · obtain ⟨v, hv, hc⟩ := compress_writes (w := s.work) h0 hw hfit hf hp
    have hframe := compress_frame hv
    refine ⟨complete (s.setWork v), by rw [execCompress_eq hi ho h0, hv]; rfl, rfl, hframe, hc.ports, hc.out, hc.read,
      hc.tree, ?_, ?_, hc.counts, ?_⟩
    · exact congrArg Core.treeV hframe
    · exact congrArg Core.codesV hframe
    · exact congrArg Core.wbCnt hframe
  · obtain ⟨v, hv, hports⟩ := makeCodes_empty (w := s.work) hin
    refine ⟨raise .emptyInput (s.setWork v), ?_, rfl, by simp [hports]⟩
    rw [execCompress_eq hi ho h0, compress_eq, hv]
    rfl
  · obtain ⟨v, hv, hports⟩ := makeCodes_overflow (w := s.work) hin hfit hfull
    refine ⟨raise .countOverflow (s.setWork v), ?_, rfl, by simp [hports]⟩
    rw [execCompress_eq hi ho h0, compress_eq, hv]
    rfl
  · obtain ⟨v, hv⟩ := compress_fails (w := s.work) h0 hfit hf hp hk
    exact ⟨raise .writeFailure (s.setWork v), by rw [execCompress_eq hi ho h0, hv]; rfl, rfl⟩

end Sys2Proof.Machine

/-! ## `DECOMPRESS` of a file (R104, R113, R134, R137) -/

namespace Sys2Proof.Machine

/-! ### The valid bits of a packed stream (R104, R105) -/

theorem byteBits_byteOf (bs : List Bool) : byteBits (byteOf bs) = (bs ++ List.replicate 8 false).take 8 := by
  obtain ⟨b, hb⟩ := exists_byteBits_eq ((bs ++ List.replicate 8 false).take 8) (by simp)
  rw [byteOf, ← hb, ofNat_bitsValue_byteBits]

theorem take_byteBits_byteOf {bs : List Bool} (h8 : bs.length ≤ 8) : (byteBits (byteOf bs)).take bs.length = bs := by
  rw [byteBits_byteOf, List.take_take, Nat.min_eq_left h8, List.take_left' rfl]

/-- The footer of a bit sequence says how many bits its last byte holds (R105, R130). -/
theorem footerCount_footer (bs : List Bool) :
    footerCount (footer bs) = some (8 - (8 - bs.length % 8) % 8) :=
  footerCount_two_pow ⟨(8 - bs.length % 8) % 8, Nat.mod_lt _ (by decide)⟩

/-- In front of a data byte and a footer a byte is valid, all of it. -/
theorem validBits_cons (b : Byte) {d : List Byte} (h : 2 ≤ d.length) :
    validBits (b :: d) = byteBits b ++ validBits d := by
  match d, h with
  | _ :: _ :: _, _ => rfl

theorem validBits_bytes (zs : List Byte) {d : List Byte} (h : 2 ≤ d.length) :
    validBits (zs ++ d) = zs.flatMap byteBits ++ validBits d := by
  induction zs with
  | nil => rfl
  | cons z zs ih =>
    rw [List.cons_append, validBits_cons z (by rw [List.length_append]; omega), ih, List.flatMap_cons,
      List.append_assoc]

/-- Any bits are those of whole bytes and of one more byte that holds at least a bit. -/
theorem exists_bytes_eq {bs : List Bool} (h : bs ≠ []) :
    ∃ (zs : List Byte) (r : List Bool), bs = zs.flatMap byteBits ++ r ∧ r ≠ [] ∧ r.length ≤ 8 := by
  induction hn : bs.length using Nat.strong_induction_on generalizing bs with
  | _ n ih =>
    by_cases h8 : bs.length ≤ 8
    · exact ⟨[], bs, rfl, h, h8⟩
    · obtain ⟨b, hb⟩ := exists_byteBits_eq (bs.take 8) (List.length_take_of_le (by omega))
      have hlen := List.length_drop (i := 8) (l := bs)
      obtain ⟨zs, r, hr, hne, hr8⟩ :=
        ih (bs.drop 8).length (by omega) (List.ne_nil_of_length_pos (by omega)) rfl
      refine ⟨b :: zs, r, ?_, hne, hr8⟩
      rw [List.flatMap_cons, List.append_assoc, ← hr, hb, List.take_append_drop]

/-- The valid bits of packed bits under their footer are those bits (R104, R136). -/
theorem validBits_pack {bs : List Bool} (h : bs ≠ []) : validBits (pack bs ++ [footer bs]) = bs := by
  obtain ⟨zs, r, rfl, hne, h8⟩ := exists_bytes_eq h
  have hpos := List.length_pos_iff.mpr hne
  have hcount : 8 - (8 - r.length % 8) % 8 = r.length := by omega
  rw [pack_bytes, footer_bytes, pack_one hne h8, List.append_assoc, validBits_bytes _ (by simp), List.singleton_append,
    validBits, footerCount_footer, hcount, Option.getD_some, take_byteBits_byteOf h8]

theorem goodFooter_pack (bs : List Bool) : GoodFooter (pack bs ++ [footer bs]) := by
  simp [GoodFooter, footerCount_footer]

/-! ### `RD_MAGIC` on a stream (R106, R113) -/

/-- A stream of a data byte and a footer at least, its footer legal, primes the reader at its first bit (R106). -/
theorem prime_opens {w : Work} (h2 : 2 ≤ w.ahead.length) (hf : GoodFooter w.ahead) :
    ∃ v, prime w = .ok () v ∧ ReaderReady (openReader v) ∧ bitsLeft (openReader v) = validBits w.ahead := by
  have hnext {b : Byte} {bs : List Byte} {u : Work} (ha : u.ahead = b :: bs) : (u.skip 1).ahead = bs := by
    rw [Work.ahead_skip, ha]
    rfl
  match ha : w.ahead, h2 with
  | cur :: la0 :: rest, _ =>
    rw [ha] at hf
    have hrest : ((w.skip 1).skip 1).ahead = rest := hnext (hnext ha)
    have hprime : prime w = loadWindow cur la0 ((w.skip 1).skip 1) := by
      rw [prime, readOr_byte ha, Res.bind_ok, readOr_byte (hnext ha), Res.bind_ok]
    cases rest with
    | nil =>
      obtain ⟨n, hn⟩ := Option.isSome_iff_exists.mp hf
      replace hn : footerCount la0 = some n := hn
      have hv := loadWindow_final (cur := cur) (Work.ahead_eq_nil.mp hrest) hn
      refine ⟨_, hprime.trans hv, ⟨rfl, ?_, hf⟩, rfl⟩
      simp [ReaderOk, openReader, hn]
    | cons la1 rest =>
      obtain ⟨v, hv, hstream, hopen⟩ : ∃ v, prime w = .ok () v ∧
          streamFrom (openReader v) = cur :: la0 :: la1 :: rest ∧ v.core.rbLa1V = true ∧ v.core.rbPos = 0 := by
        refine ⟨_, hprime.trans (loadWindow_more (Work.next_of_ahead hrest)), ?_, rfl, rfl⟩
        exact congrArg (cur :: la0 :: la1 :: ·) (hnext hrest)
      obtain ⟨hla1, hpos⟩ := hopen
      refine ⟨v, hv, ⟨rfl, ?_, hstream.symm ▸ hf⟩, (bitsLeft_at_zero hpos).trans (congrArg validBits hstream)⟩
      simp [ReaderOk, openReader, hla1, hpos]

theorem rdMagic_opens {magic : Vector Byte 4} {w : Work} {d : List Byte} (h : w.ahead = magic.toList ++ d)
    (h2 : 2 ≤ d.length) (hf : GoodFooter d) :
    ∃ v, rdMagic magic w = .ok () v ∧ ReaderReady v ∧ bitsLeft v = validBits d ∧ InputOnly w.ports v.ports := by
  have hrest : ((closeReader w).skip 4).ahead = d := by
    rw [Work.ahead_skip, Work.ahead_closeReader, h]
    exact List.drop_left' (by simp)
  obtain ⟨v, hv, hready, hbits⟩ := prime_opens (w := (closeReader w).skip 4) (by rwa [hrest]) (by rwa [hrest])
  have hports := ((prime_post _).of_ok hv).ports
  exact ⟨openReader v, by rw [rdMagic_accepts h, hv, Res.bind_ok], hready, by rw [hbits, hrest], hports⟩

/-! ### `DECOMPRESS` (R134) -/

theorem deserTree_tree {w : Work} {tr : Tree} {rest : List Bool} (h : ReaderReady w) (hi : tr.internals ≤ 255)
    (hb : bitsLeft w = tr.bits ++ rest) :
    ∃ v, deserTree w = .ok () v ∧ InputOnly w.ports v.ports ∧ ReaderReady v ∧ bitsLeft v = rest ∧
      v.core.tree = some tr := by
  obtain ⟨v, hv, hports, hready, hleft, hroot, -, hp⟩ := deserTree_reads h hi hb
  have hslots := tr.two_mul_leaves
  have hleaves := tr.leaves_eq
  refine ⟨v, hv, hports, hready, hleft, ?_⟩
  rw [Core.tree, hroot]
  exact treeAt_of_laidOut (i := 0) (d := 256) hp.laid (by omega) (by omega)

/-- A stream of a tree's description and codes under the tree is decoded, and its bytes are written (R134). -/
theorem decompress_writes {magic : Vector Byte 4} {w : Work} {d : List Byte} {tr : Tree} {ps : List (Byte × List Bool)}
    (h : w.ahead = magic.toList ++ d) (h2 : 2 ≤ d.length) (hf : GoodFooter d) (hi : tr.internals ≤ 255)
    (hps : ∀ p ∈ ps, p ∈ tr.codes) (hbits : validBits d = tr.bits ++ ps.flatMap Prod.snd)
    (hp : OksAhead (ps.length + 1) w.ports) :
    ∃ v, decompress magic w = .ok () v ∧ v.ports.outData = w.ports.outData ++ ps.map Prod.fst := by
  obtain ⟨u, hu, hready, hleft, hports⟩ := rdMagic_opens h h2 hf
  obtain ⟨x, hx, hports', hready', hleft', htree⟩ := deserTree_tree hready hi (hleft.trans hbits)
  obtain ⟨v, hv, -, hout⟩ := decStream_writes hready' htree hps hleft' (by rw [hports', hports]; exact hp)
  refine ⟨v, by rw [decompress, hu, Res.bind_ok, hx, Res.bind_ok, hv], ?_⟩
  rw [hout, hports', hports]

theorem execDecompress_eq {s : State} (hi : s.launch.inPresent = true) (ho : s.launch.outPresent = true) :
    exec .decompress s = settle s (decompress s.launch.magic s.work) :=
  checked_ready (fun _ => hi) (fun _ => ho) rfl

/-- Every input byte beside its code: what the payload of a file spells (R135). -/
def codedBytes (t : Tree) (x : List Byte) : List (Byte × List Bool) := x.map fun b => (b, t.codeOf b)

theorem codedBytes_fst (t : Tree) (x : List Byte) : (codedBytes t x).map Prod.fst = x := by
  simp [codedBytes, Function.comp_def]

theorem codedBytes_snd (t : Tree) (x : List Byte) : (codedBytes t x).flatMap Prod.snd = x.flatMap t.codeOf := by
  simp [codedBytes, List.flatMap_map]

/-- A file under a tree that codes its input is decompressed to that input. -/
theorem decompress_fileWith {magic : Vector Byte 4} {w : Work} {tr : Tree} {x : List Byte}
    (h : w.ahead = fileWith magic tr x) (hi : tr.internals ≤ 255) (hc : ∀ b ∈ x, (b, tr.codeOf b) ∈ tr.codes)
    (hp : OksAhead (x.length + 1) w.ports) :
    ∃ v, decompress magic w = .ok () v ∧ v.ports.outData = w.ports.outData ++ x := by
  have hlen := tr.bits_length
  have hpos := tr.leaves_pos
  have hne : fileBits tr x ≠ [] := List.append_ne_nil_of_left_ne_nil (List.ne_nil_of_length_pos (by omega)) _
  have hpack := pack_length (fileBits tr x)
  have hlen' := List.length_pos_iff.mpr hne
  obtain ⟨v, hv, hout⟩ := decompress_writes (ps := codedBytes tr x) (h.trans (List.append_assoc ..))
    (by rw [List.length_append, List.length_singleton]; omega) (goodFooter_pack _) hi
    (fun p hp => by
      obtain ⟨b, hb, rfl⟩ := List.mem_map.mp hp
      exact hc b hb)
    ((validBits_pack hne).trans (by rw [codedBytes_snd]; rfl)) (by rwa [codedBytes, List.length_map])
  exact ⟨v, hv, by rw [hout, codedBytes_fst]⟩

/-- Settles O59: `COMPRESS` writes the file under the tree of the counts (O57), whose valid bits are the tree's
description and the codes of the input, and these `DECOMPRESS` reads back. -/
theorem roundTripRestoresInput : Obligations.RoundTripRestoresInput := by
  unfold Obligations.RoundTripRestoresInput
  intro s r f hi ho h0 hw hne hfit hsout hf hp hlaunch hin hpos hrout hp'
  obtain ⟨v, hv, hc⟩ := compress_writes (w := s.work) h0 hw hfit hf hp
  obtain ⟨_, tr, -, hm, -, hfile⟩ := makeCodes_of_file (w := s.work) hfit hf
  have hahead : r.work.ahead = fileWith r.launch.magic tr s.ports.inData := by
    rw [hlaunch, Work.ahead, State.work_ports, hpos, List.drop_zero, hin]
    exact hfile
  obtain ⟨u, hu, hout⟩ := decompress_fileWith hahead hm.small hm.coded hp'
  refine ⟨complete (s.setWork v), complete (r.setWork u), by rw [execCompress_eq hi ho h0, hv]; rfl, rfl, ?_,
    by rw [execDecompress_eq (hlaunch ▸ hi) (hlaunch ▸ ho), hu]; rfl, rfl, ?_⟩
  · rw [hin]
    exact hc.out.trans (by rw [State.work_ports, hsout, List.nil_append])
  · exact hout.trans (by rw [State.work_ports, hrout, List.nil_append])

end Sys2Proof.Machine

/-! ## The command word: its decoder and its encoder (R61 to R68) -/

namespace Sys2Proof

/-- Every command's word holds its opcode, its operand and nothing else, and the decoder takes it exactly when the
command is well-formed. -/
theorem encode_fields (i : Instr) : Laws.EncodeFields.Statement i := by
  cases i with
  | nop => exact Laws.EncodeFields.nop
  | softReset => exact Laws.EncodeFields.softReset
  | freqClear => exact Laws.EncodeFields.freqClear
  | freqCount => exact Laws.EncodeFields.freqCount
  | buildTree => exact Laws.EncodeFields.buildTree
  | genCodes => exact Laws.EncodeFields.genCodes
  | wrMagic => exact Laws.EncodeFields.wrMagic
  | pushBits n => exact Laws.EncodeFields.pushBits n
  | serTree => exact Laws.EncodeFields.serTree
  | encSym sym => exact Laws.EncodeFields.encSym sym
  | encStream => exact Laws.EncodeFields.encStream
  | flushPartial => exact Laws.EncodeFields.flushPartial
  | finish => exact Laws.EncodeFields.finish
  | rdMagic => exact Laws.EncodeFields.rdMagic
  | pullBits n => exact Laws.EncodeFields.pullBits n
  | deserTree => exact Laws.EncodeFields.deserTree
  | decSym => exact Laws.EncodeFields.decSym
  | decStream => exact Laws.EncodeFields.decStream
  | compress => exact Laws.EncodeFields.compress
  | decompress => exact Laws.EncodeFields.decompress

theorem decode_encode {i : Instr} (h : i.wellFormed = true) : decode (encode i) = .instr i :=
  (encode_fields i).2.2.2.mp h

/-- A word is its three fields, so two words with equal fields are equal (R61). -/
theorem word_eq_of_fields {v w : Word} (hc : opcField v = opcField w) (hd : opdField v = opdField w)
    (hm : mbzField v = mbzField w) : v = w := by
  have hc := congrArg BitVec.toNat hc
  have hd := congrArg BitVec.toNat hd
  have hm := congrArg BitVec.toNat hm
  rw [opcField_toNat, opcField_toNat] at hc
  rw [opdField_toNat, opdField_toNat] at hd
  simp only [mbzField, BitVec.extractLsb'_toNat, Nat.shiftRight_eq_div_pow] at hm
  bv_omega

theorem decodePlain_opd {opd : Byte} {i j : Instr} (h : decodePlain opd i = .instr j) : opd = 0 := by
  unfold decodePlain at h
  split at h <;> cases h
  assumption

theorem decodeCount_legal {n : Byte} {i j : Instr} (h : decodeCount n i = .instr j) : 1 ≤ n.toNat ∧ n.toNat ≤ 32 := by
  unfold decodeCount at h
  split at h <;> cases h
  assumption

/-- By the rows of the opcode map: the two counts, the symbol of `ENC_SYM`, no row, and the rows without operand. -/
theorem decodeOpc_operand {opc opd : Byte} {i : Instr} (h : decodeOpc opc opd = .instr i) :
    i.opd = opd ∧ i.wellFormed = true := by
  unfold decodeOpc at h
  split at h
  case h_8 | h_15 =>
    have hn := decodeCount_legal h
    cases decodeCount_instr h
    exact ⟨rfl, by simpa [Instr.wellFormed] using hn⟩
  case h_10 => cases h; exact ⟨rfl, rfl⟩
  case h_21 => cases h
  all_goals
    have hz := decodePlain_opd h
    cases decodePlain_instr h
    exact ⟨hz.symm, rfl⟩

/-- The fields of a word that decodes are those of its command (R67). -/
theorem decode_fields {w : Word} {i : Instr} (h : decode w = .instr i) :
    mbzField w = 0 ∧ i.opd = opdField w ∧ i.wellFormed = true := by
  unfold decode at h
  split at h
  · exact ⟨‹_›, decodeOpc_operand h⟩
  · cases h

theorem encode_of_decode {w : Word} {i : Instr} (h : decode w = .instr i) : encode i = w := by
  obtain ⟨hc, hd, hm, -⟩ := encode_fields i
  obtain ⟨hw, ho, -⟩ := decode_fields h
  exact word_eq_of_fields (hc.trans (decode_opc h)) (hd.trans ho) (hm.trans hw.symm)

/-- Settles O1: the decoder takes the word of every well-formed command, by the fields of its encoding. -/
theorem decodeReadsEncode : Obligations.DecodeReadsEncode := by
  unfold Obligations.DecodeReadsEncode
  exact fun i => decode_encode

/-- Settles O2: the fields of the word are the command's, and the fields of its encoding are too. -/
theorem encodeInvertsDecode : Obligations.EncodeInvertsDecode := by
  unfold Obligations.EncodeInvertsDecode
  exact fun w i h => ⟨(decode_fields h).2.2, encode_of_decode h⟩

/-- Settles O3: by evaluation of the decoder. -/
theorem exampleWordsDecode : Obligations.ExampleWordsDecode := by
  unfold Obligations.ExampleWordsDecode
  decide

end Sys2Proof

/-! ## What a command does to the ports, and the errors it raises (R38, R49 to R53, R64, R139) -/

namespace Sys2Proof.Machine

/-! ### Moves of the ports -/

/-- What a body may do to the ports: read IN only where `rd`, write OUT and ask the sink only where `wr`. The input's
bytes stay, its position keeps within them, and the output only grows (R33, R34). -/
structure PortsMove (rd wr : Bool) (p q : Ports) : Prop where
  input : q.inData = p.inData
  inside : p.inPos ≤ p.inData.length → q.inPos ≤ q.inData.length
  still : rd = false → q.inPos = p.inPos
  grows : p.outData <+: q.outData
  silent : wr = false → q.outData = p.outData ∧ q.sinkPlan = p.sinkPlan ∧ q.draws = p.draws

theorem PortsMove.refl {rd wr : Bool} (p : Ports) : PortsMove rd wr p p :=
  ⟨rfl, id, fun _ => rfl, List.prefix_refl _, fun _ => ⟨rfl, rfl, rfl⟩⟩

theorem PortsMove.trans {rd wr : Bool} {p q r : Ports} (h : PortsMove rd wr p q) (k : PortsMove rd wr q r) :
    PortsMove rd wr p r where
  input := k.input.trans h.input
  inside hp := k.inside (h.inside hp)
  still hr := (k.still hr).trans (h.still hr)
  grows := h.grows.trans k.grows
  silent hw := by
    obtain ⟨ho, hs, hd⟩ := h.silent hw
    obtain ⟨ko, ks, kd⟩ := k.silent hw
    exact ⟨ko.trans ho, ks.trans hs, kd.trans hd⟩

theorem PortsMove.mono {rd wr rd' wr' : Bool} {p q : Ports} (h : PortsMove rd wr p q) (hr : rd ≤ rd') (hw : wr ≤ wr') :
    PortsMove rd' wr' p q :=
  ⟨h.input, h.inside, fun k => h.still (Bool.eq_false_of_le_false (k ▸ hr)), h.grows,
    fun k => h.silent (Bool.eq_false_of_le_false (k ▸ hw))⟩

theorem OutMoves.portsMove {p q : Ports} (h : OutMoves p q) : PortsMove false true p q := by
  have hin : q.inData = p.inData := by rw [h.only]
  have hpos : q.inPos = p.inPos := by rw [h.only]
  exact ⟨hin, fun k => by rwa [hin, hpos], fun _ => hpos, h.grows, fun k => by cases k⟩

theorem readByte_portsMove (p : Ports) : PortsMove true false p p.readByte.2 := by
  rcases readByte_cases p with ⟨h, k⟩ | ⟨-, k⟩ <;> rw [k]
  · exact ⟨rfl, fun _ => h, fun k => (by cases k), List.prefix_refl _, fun _ => ⟨rfl, rfl, rfl⟩⟩
  · exact PortsMove.refl p

theorem rewind_portsMove (p : Ports) : PortsMove true false p p.rewind :=
  ⟨rfl, fun _ => Nat.zero_le _, fun k => (by cases k), List.prefix_refl _, fun _ => ⟨rfl, rfl, rfl⟩⟩

/-! ### The effects of a body -/

/-- The effects of a body begun on `w`: its moves of the ports, and the errors it can raise. -/
def Res.Effects {α : Type} (rd wr : Bool) (es : List ErrKind) (w : Work) (r : Res α) : Prop :=
  r.Post (fun _ v => PortsMove rd wr w.ports v.ports) (fun e v => e ∈ es ∧ PortsMove rd wr w.ports v.ports)
    (fun _ => True)

theorem Res.Effects.mono {α : Type} {rd wr rd' wr' : Bool} {es es' : List ErrKind} {w : Work} {r : Res α}
    (h : r.Effects rd wr es w) (hr : rd ≤ rd' := by decide) (hw : wr ≤ wr' := by decide)
    (he : es ⊆ es' := by decide) : r.Effects rd' wr' es' w :=
  Res.Post.mono h (fun _ _ k => k.mono hr hw) (fun _ _ k => ⟨he k.1, k.2.mono hr hw⟩) (fun _ _ => trivial)

theorem Res.Effects.bind {α β : Type} {rd wr : Bool} {es : List ErrKind} {w : Work} {r : Res α}
    {k : α → Work → Res β} (h : r.Effects rd wr es w) (hk : ∀ a v, (k a v).Effects rd wr es v) :
    (r.bind k).Effects rd wr es w :=
  Res.Post.bind h fun a v hv =>
    Res.Post.mono (hk a v) (fun _ _ m => hv.trans m) (fun _ _ m => ⟨m.1, hv.trans m.2⟩) (fun _ _ => trivial)

/-- A body that goes through at once, with the ports as they were. -/
theorem effects_ok {α : Type} {rd wr : Bool} {es : List ErrKind} {a : α} {v w : Work} (h : v.ports = w.ports) :
    (Res.ok a v).Effects rd wr es w := by
  change PortsMove rd wr w.ports v.ports
  rw [h]
  exact PortsMove.refl _

/-- Effects depend on the ports a body begins with, not on its core state. -/
theorem Res.Effects.of_ports {α : Type} {rd wr : Bool} {es : List ErrKind} {v w : Work} {r : Res α}
    (h : r.Effects rd wr es v) (hp : v.ports = w.ports) : r.Effects rd wr es w := by
  unfold Res.Effects at h ⊢
  rwa [← hp]

/-! ### The writer's bodies -/

theorem effects_of_writer {α : Type} {P : α → Work → Prop} {F : Fault → Prop} {w : Work} {r : Res α}
    (h : r.Post P (WriterErr w) F) (hP : ∀ a v, P a v → WriterMoves w v) : r.Effects false true [.writeFailure] w :=
  Res.Post.mono h (fun a v k => (hP a v k).ports.portsMove)
    (fun _ _ k => ⟨List.mem_singleton.mpr k.1, k.2.ports.portsMove⟩) (fun _ _ => trivial)

theorem emit_effects (b : Byte) (w : Work) : (emit b w).Effects false true [.writeFailure] w :=
  effects_of_writer (emit_post b w) fun _ _ => id

theorem flushOut_effects (w : Work) : (flushOut w).Effects false true [.writeFailure] w :=
  effects_of_writer (flushOut_post w) fun _ _ h => h.1

theorem encodeSym_effects (b : Byte) (w : Work) : (encodeSym b w).Effects false true [.noCode, .writeFailure] w := by
  refine Res.Post.mono (encodeSym_post b w) (fun _ _ h => h.2.ports.portsMove) ?_ (fun _ _ => trivial)
  rintro e v (⟨rfl, -, rfl⟩ | ⟨rfl, h⟩)
  · exact ⟨by decide, PortsMove.refl _⟩
  · exact ⟨by decide, h.ports.portsMove⟩

theorem wrMagic_effects (m : Vector Byte 4) (w : Work) : (wrMagic m w).Effects false true [.writeFailure] w :=
  effects_of_writer (emitAll_post _ w) fun _ _ => id

theorem pushArg_effects (n : Byte) (w : Work) : (pushArg n w).Effects false true [.writeFailure] w :=
  effects_of_writer (pushBits_post _ w) fun _ _ => id

theorem serTree_effects (w : Work) : (serTree w).Effects false true [.writeFailure] w :=
  effects_of_writer (ser_post _ _ w) fun _ _ => id

theorem flushPartial_effects (w : Work) : (flushPartial w).Effects false true [.writeFailure] w :=
  effects_of_writer (flushPartial_post w) fun _ _ => id

theorem finish_effects (w : Work) : (finish w).Effects false true [.writeFailure] w :=
  effects_of_writer (finish_post w) fun _ _ => id

/-! ### The reader's bodies -/

theorem readOr_effects (e : ErrKind) (w : Work) : (readOr e w).Effects true false [e] w := by
  have h := readByte_portsMove w.ports
  unfold readOr
  cases hr : w.ports.readByte with
  | mk b p =>
    rw [hr] at h
    cases b with
    | some b => exact h
    | none => exact ⟨List.mem_singleton_self e, h⟩

theorem checkFooter_effects (f : Byte) (w : Work) : (checkFooter f w).Effects true false [.corruptData] w := by
  rcases checkFooter_cases f w with ⟨-, h⟩ | ⟨-, h⟩ <;> rw [h]
  · exact PortsMove.refl _
  · exact ⟨by decide, PortsMove.refl _⟩

theorem loadWindow_effects (cur la0 : Byte) (w : Work) :
    (loadWindow cur la0 w).Effects true false [.corruptData] w := by
  rcases readByte_cases w.ports with ⟨h, -⟩ | ⟨h, -⟩
  · rw [loadWindow_more (List.getElem?_eq_getElem h)]
    exact ⟨rfl, fun _ => h, fun k => (by cases k), List.prefix_refl _, fun _ => ⟨rfl, rfl, rfl⟩⟩
  · rw [loadWindow_last h]
    exact (checkFooter_effects _ _).of_ports rfl

theorem prime_effects (w : Work) : (prime w).Effects true false [.corruptData] w :=
  (readOr_effects _ w).bind fun _ u => (readOr_effects _ u).bind fun _ v => loadWindow_effects _ _ v

theorem nextBit_effects (w : Work) : (nextBit w).Effects true false [.corruptData] w := by
  unfold nextBit
  split
  · exact ⟨by decide, PortsMove.refl _⟩
  · split
    · trivial
    · dsimp only
      split
      · exact ((loadWindow_effects _ _ _).of_ports rfl).bind fun _ _ => effects_ok rfl
      · exact effects_ok rfl

theorem readBits_effects (n : Nat) (x : Word) (w : Work) : (readBits n x w).Effects true false [.corruptData] w := by
  induction n generalizing x w with
  | zero => exact effects_ok rfl
  | succ n ih => exact (nextBit_effects w).bind fun b u => ih _ u

theorem readHeader_effects (n : Nat) (w : Work) : (readHeader n w).Effects true false [.invalidHeader] w := by
  induction n generalizing w with
  | zero => exact effects_ok rfl
  | succ n ih => exact (readOr_effects _ w).bind fun b u => (ih u).bind fun _ _ => effects_ok rfl

theorem rdMagic_effects (m : Vector Byte 4) (w : Work) :
    (rdMagic m w).Effects true false [.invalidHeader, .corruptData] w := by
  refine (((readHeader_effects 4 (closeReader w)).of_ports rfl).mono).bind fun got v => ?_
  split
  · exact (prime_effects v).mono.bind fun _ _ => effects_ok rfl
  · exact ⟨by decide, PortsMove.refl _⟩

theorem pullBits_effects (n : Byte) (w : Work) : (pullBits n w).Effects true false [.corruptData] w :=
  (readBits_effects _ _ w).bind fun _ _ => effects_ok rfl

theorem deser_effects (d : Nat) (parent : Slot) (side : Bool) (t : Tally) (w : Work) :
    (deser d parent side t w).Effects true false [.corruptData] w := by
  induction d generalizing parent side t w with
  | zero => trivial
  | succ d ih =>
    refine (nextBit_effects w).bind fun b u => ?_
    split
    · exact (readBits_effects _ _ u).bind fun _ _ => effects_ok rfl
    · split
      · exact ⟨by decide, PortsMove.refl _⟩
      · exact ((ih _ _ _ _).of_ports rfl).bind fun (j, _) v =>
          ((ih _ _ _ _).of_ports rfl).bind fun (k, _) _ => effects_ok rfl

theorem deserTree_effects (w : Work) : (deserTree w).Effects true false [.corruptData] w :=
  ((deser_effects _ _ _ _ (deserStart w)).of_ports rfl).bind fun _ _ => effects_ok rfl

theorem decodeFrom_effects (k : Nat) (i : Slot) (w : Work) :
    (decodeFrom k i w).Effects true false [.corruptData] w := by
  induction k generalizing i w with
  | zero => trivial
  | succ k ih =>
    refine (nextBit_effects w).bind fun b u => ?_
    dsimp only
    generalize (if b then (u.core.nodeAt i).c1 else (u.core.nodeAt i).c0) = j
    split
    · trivial
    · split
      · exact effects_ok rfl
      · exact ih _ u

theorem decodeOne_effects (w : Work) : (decodeOne w).Effects true false [.corruptData] w := by
  unfold decodeOne
  dsimp only
  split
  · trivial
  · split
    · refine (nextBit_effects w).bind fun b u => ?_
      split
      · exact ⟨by decide, PortsMove.refl _⟩
      · exact effects_ok rfl
    · exact decodeFrom_effects _ _ w

theorem decSym_effects (w : Work) : (decSym w).Effects true false [.corruptData] w := by
  unfold decSym
  split
  · exact effects_ok rfl
  · exact (decodeOne_effects w).bind fun _ _ => effects_ok rfl

/-! ### The loops -/

/-- A loop over the input reads, and does what its passes do (R12). -/
theorem forBytes_effects {body : Byte → Work → Res Unit} {wr : Bool} {es : List ErrKind}
    (hb : ∀ b w, (body b w).Effects false wr es w) (k : Nat) (w : Work) : (forBytes body k w).Effects true wr es w := by
  induction k generalizing w with
  | zero => trivial
  | succ k ih =>
    have h := readByte_portsMove w.ports
    unfold forBytes
    cases hr : w.ports.readByte with
    | mk b p =>
      rw [hr] at h
      have hp : PortsMove true wr w.ports p := h.mono le_rfl (Bool.false_le wr)
      cases b with
      | none => exact hp
      | some b =>
        exact Res.Effects.bind (r := .ok () (w.setPorts p))
          (k := fun _ v => (body b v).bind fun _ v => forBytes body k v)
          hp fun _ v => ((hb b v).mono (Bool.false_le true) le_rfl fun _ => id).bind fun _ v => ih v

theorem countByte_effects (b : Byte) (w : Work) : (countByte b w).Effects false false [.countOverflow] w := by
  rcases countByte_cases b w with ⟨-, h⟩ | ⟨-, h⟩ <;> rw [h]
  · exact ⟨by decide, PortsMove.refl _⟩
  · exact effects_ok rfl

theorem freqCount_effects (w : Work) : (freqCount w).Effects true false [.countOverflow] w :=
  (forBytes_effects countByte_effects _ (closeReader w)).of_ports rfl

theorem encStream_effects (w : Work) : (encStream w).Effects true true [.noCode, .writeFailure] w :=
  Res.Effects.bind (r := .ok () (rewind (closeReader w))) (k := fun _ v => forInput encodeSym v)
    ((rewind_portsMove w.ports).mono le_rfl (Bool.false_le true)) fun _ v => forBytes_effects encodeSym_effects _ v

theorem decodeAll_effects (k : Nat) (w : Work) : (decodeAll k w).Effects true true [.corruptData, .writeFailure] w := by
  induction k generalizing w with
  | zero => trivial
  | succ k ih =>
    unfold decodeAll
    split
    · exact effects_ok rfl
    · exact (decodeOne_effects w).mono.bind fun b u => (emit_effects b u).mono.bind fun _ v => ih v

theorem decStream_effects (w : Work) : (decStream w).Effects true true [.corruptData, .writeFailure] w :=
  (decodeAll_effects _ w).bind fun _ v => (flushOut_effects v).mono

/-! ### The tables and the composite commands -/

theorem freqClear_effects (w : Work) : (freqClear w).Effects false false [] w := effects_ok rfl

theorem buildTree_effects (w : Work) : (buildTree w).Effects false false [.emptyInput] w := by
  unfold buildTree
  dsimp only
  split
  · exact ⟨by decide, PortsMove.refl _⟩
  · exact effects_ok rfl

theorem walkAll_effects (is : List Slot) (w : Work) : (walkAll is w).Effects false false [] w := by
  induction is generalizing w with
  | nil => exact effects_ok rfl
  | cons i is ih =>
    have hwalk : (walk i w).Effects false false [] w := by
      unfold walk
      split
      · exact effects_ok rfl
      · trivial
    exact hwalk.bind fun _ v => ih v

theorem genCodes_effects (w : Work) : (genCodes w).Effects false false [] w := by
  unfold genCodes
  dsimp only
  split
  · trivial
  · split
    · exact effects_ok rfl
    · generalize leafSlots _ = is
      exact ((walkAll_effects is _).of_ports rfl).bind fun _ _ => effects_ok rfl

theorem compress_effects (m : Vector Byte 4) (w : Work) :
    (compress m w).Effects true true [.countOverflow, .emptyInput, .noCode, .writeFailure] w := by
  have hstart : (freqClear (rewind w)).Effects true false [] w := rewind_portsMove w.ports
  refine Res.Effects.bind hstart.mono fun _ u => ?_
  refine Res.Effects.bind (freqCount_effects u).mono fun _ u => ?_
  refine Res.Effects.bind (buildTree_effects u).mono fun _ u => ?_
  refine Res.Effects.bind (genCodes_effects u).mono fun _ u => ?_
  refine Res.Effects.bind (wrMagic_effects m u).mono fun _ u => ?_
  refine Res.Effects.bind (serTree_effects u).mono fun _ u => ?_
  exact Res.Effects.bind (encStream_effects u).mono fun _ u => (finish_effects u).mono

theorem decompress_effects (m : Vector Byte 4) (w : Work) :
    (decompress m w).Effects true true [.invalidHeader, .corruptData, .writeFailure] w :=
  (rdMagic_effects m w).mono.bind fun _ u => (deserTree_effects u).mono.bind fun _ v => (decStream_effects v).mono

/-! ### How a command ends -/

/-- How a command other than `SOFT_RESET` ends: by completion, or by error entry and completion with a kind that the
table of error kinds lists for it; by then it has moved only the ports it needs (R64, R73, R139). -/
inductive Ending (i : Instr) (s : State) : State → Prop
  | completed (v : Work) (h : PortsMove (needsIn i) (needsOut i) s.ports v.ports) : Ending i s (complete (s.setWork v))
  | failed (e : ErrKind) (v : Work) (he : i.opc ∈ raisers e)
      (h : PortsMove (needsIn i) (needsOut i) s.ports v.ports) : Ending i s (raise e (s.setWork v))

theorem opc_mem_raisers_invalidArgument (i : Instr) : i.opc ∈ raisers .invalidArgument := by
  cases i <;> simp [Instr.opc, raisers]

/-- An error raised by the checks, before the body (R75). -/
theorem Ending.before_body {i : Instr} {s : State} {e : ErrKind} (he : i.opc ∈ raisers e) :
    Ending i s (raise e s) :=
  Ending.failed e s.work he (PortsMove.refl _)

theorem checked_ending {rd wr prereq : Bool} {body : Work → Res Unit} {es : List ErrKind} {i : Instr} {s t : State}
    (h : checked rd wr prereq body s = .next t) (hb : (body s.work).Effects (needsIn i) (needsOut i) es s.work)
    (hes : ∀ e ∈ es, i.opc ∈ raisers e) (hp : prereq = true ∨ i.opc ∈ raisers .sequenceError) : Ending i s t := by
  rcases checked_cases rd wr prereq body s with ⟨-, k⟩ | ⟨-, -, hf, k⟩ | ⟨-, -, -, k⟩ <;> rw [k] at h
  · cases h
    exact .before_body (opc_mem_raisers_invalidArgument i)
  · cases h
    exact .before_body (hp.resolve_left (by simp [hf]))
  · rcases settle_eq_next.mp h with ⟨v, hv, rfl⟩ | ⟨e, v, hv, rfl⟩ <;> rw [hv] at hb
    · exact .completed v hb
    · exact .failed e v (hes e hb.1) hb.2

theorem checkedCount_ending {rd wr prereq : Bool} {body : Work → Res Unit} {es : List ErrKind} {i : Instr} {n : Byte}
    {s t : State} (h : checkedCount n (checked rd wr prereq body) s = .next t)
    (hb : (body s.work).Effects (needsIn i) (needsOut i) es s.work)
    (hes : ∀ e ∈ es, i.opc ∈ raisers e) (hp : prereq = true ∨ i.opc ∈ raisers .sequenceError) : Ending i s t := by
  cases hn : countLegal n with
  | true => exact checked_ending (by simpa [hn] using h) hb hes hp
  | false =>
    rw [checkedCount_illegal hn] at h
    cases h
    exact .before_body (opc_mem_raisers_invalidArgument i)

/-- Every command but `SOFT_RESET`, by the effects of its body. -/
theorem exec_ending {i : Instr} {s t : State} (hi : i ≠ .softReset) (h : exec i s = .next t) : Ending i s t := by
  cases i with
  | nop => cases h; exact .completed s.work (PortsMove.refl _)
  | softReset => exact absurd rfl hi
  | freqClear =>
    change checked false false true freqClear s = _ at h
    exact checked_ending h (freqClear_effects _) (by simp) (.inl rfl)
  | freqCount => exact checked_ending h (freqCount_effects _) (by simp [Instr.opc, raisers]) (.inl rfl)
  | buildTree =>
    change checked false false true buildTree s = _ at h
    exact checked_ending h (buildTree_effects _) (by simp [Instr.opc, raisers]) (.inl rfl)
  | genCodes =>
    change checked false false s.core.builtTree genCodes s = _ at h
    exact checked_ending h (genCodes_effects _) (by simp) (.inr (by decide))
  | wrMagic => exact checked_ending h (wrMagic_effects _ _) (by simp [Instr.opc, raisers]) (.inr (by decide))
  | pushBits n => exact checkedCount_ending h (pushArg_effects _ _) (by simp [Instr.opc, raisers]) (.inl rfl)
  | serTree => exact checked_ending h (serTree_effects _) (by simp [Instr.opc, raisers]) (.inr (by decide))
  | encSym b =>
    exact checked_ending h (encodeSym_effects _ _) (by simp [Instr.opc, raisers]) (.inr (by simp [Instr.opc, raisers]))
  | encStream => exact checked_ending h (encStream_effects _) (by simp [Instr.opc, raisers]) (.inr (by decide))
  | flushPartial => exact checked_ending h (flushPartial_effects _) (by simp [Instr.opc, raisers]) (.inl rfl)
  | finish => exact checked_ending h (finish_effects _) (by simp [Instr.opc, raisers]) (.inl rfl)
  | rdMagic => exact checked_ending h (rdMagic_effects _ _) (by simp [Instr.opc, raisers]) (.inl rfl)
  | pullBits n =>
    exact checkedCount_ending h (pullBits_effects _ _) (by simp [Instr.opc, raisers])
      (.inr (by simp [Instr.opc, raisers]))
  | deserTree => exact checked_ending h (deserTree_effects _) (by simp [Instr.opc, raisers]) (.inr (by decide))
  | decSym => exact checked_ending h (decSym_effects _) (by simp [Instr.opc, raisers]) (.inr (by decide))
  | decStream => exact checked_ending h (decStream_effects _) (by simp [Instr.opc, raisers]) (.inr (by decide))
  | compress => exact checked_ending h (compress_effects _ _) (by simp [Instr.opc, raisers]) (.inr (by decide))
  | decompress => exact checked_ending h (decompress_effects _ _) (by simp [Instr.opc, raisers]) (.inl rfl)

end Sys2Proof.Machine

/-! ## One step, and what it keeps (R57, R73, R139 to R147, R161) -/

namespace Sys2Proof.Machine

/-! ### What a step can be (R57) -/

/-- The state with the front of its agenda taken. -/
def State.tick (s : State) : State := { s with agenda := s.agenda.tail }

theorem State.tick_of_nil {s : State} (h : s.agenda = []) : s.tick = s := by
  cases s
  cases h
  rfl

theorem State.tick_of_cons {s : State} {e : Event} {rest : List Event} (h : s.agenda = e :: rest) :
    s.tick = { s with agenda := rest } := by
  rw [State.tick, h, List.tail_cons]

/-- A step is the core's, or nothing, or one host access, or a hardware reset. -/
theorem step_cases {s t : State} (h : step s = .next t) :
    (s.busy = true ∧ coreStep s.tick = .next t) ∨ (s.busy = false ∧ t = s.tick) ∨
    (∃ off n, t = { (regRead off n s.tick).2 with
      replies := (regRead off n s.tick).2.replies ++ [(regRead off n s.tick).1] }) ∨
    (∃ off n v, t = regWrite off n v s.tick) ∨
    ((∃ rest, s.agenda = .hardReset :: rest) ∧ t = hardReset s.tick) := by
  unfold step at h
  split at h
  next ha =>
    rw [State.tick_of_nil ha]
    split at h
    next hb => exact .inl ⟨hb, h⟩
    next hb => cases h; exact .inr (.inl ⟨by simpa using hb, rfl⟩)
  next ha =>
    rw [State.tick_of_cons ha]
    split at h
    next hb => exact .inl ⟨hb, h⟩
    next hb => cases h; exact .inr (.inl ⟨by simpa using hb, rfl⟩)
  next ha =>
    rw [State.tick_of_cons ha]
    cases h
    exact .inr (.inr (.inl ⟨_, _, rfl⟩))
  next ha =>
    rw [State.tick_of_cons ha]
    cases h
    exact .inr (.inr (.inr (.inl ⟨_, _, _, rfl⟩)))
  next ha =>
    rw [State.tick_of_cons ha]
    cases h
    exact .inr (.inr (.inr (.inr ⟨⟨_, ha⟩, rfl⟩)))

/-- The core's step ends a command, resets the core, or raises `INVALID_ARGUMENT` on a malformed word. -/
theorem coreStep_cases {s t : State} (h : coreStep s = .next t) :
    (∃ i, i ≠ .softReset ∧ decode s.pending = .instr i ∧ exec i s = .next t ∧ Ending i s t) ∨
    (decode s.pending = .instr .softReset ∧ t = complete { hardReset s with ie := s.ie, lastOpc := 0x01 }) ∨
    t = raise .invalidArgument s := by
  cases hd : decode s.pending with
  | malformed why =>
    rw [coreStep_malformed hd] at h
    cases h
    exact .inr (.inr rfl)
  | instr i =>
    rw [coreStep, hd] at h
    by_cases hi : i = .softReset
    · subst hi
      cases h
      exact .inr (.inl ⟨rfl, rfl⟩)
    · exact .inl ⟨i, hi, rfl, h, exec_ending hi h⟩

/-- A host write keeps the launch, the ports, and the error flags. -/
theorem regWrite_keeps (off : Offset) (n : Nat) (v : Word) (s : State) :
    (regWrite off n v s).launch = s.launch ∧ (regWrite off n v s).ports = s.ports ∧
      (regWrite off n v s).err = s.err ∧ (regWrite off n v s).errcode = s.errcode := by
  unfold regWrite
  split
  · split
    next r _ =>
      rcases writeReg_cases r v s with ⟨-, h⟩ | ⟨-, h⟩ | ⟨-, h⟩ | ⟨-, -, h⟩ | ⟨_, -, -, h⟩ | h <;> rw [h]
      · exact ⟨rfl, rfl, rfl, rfl⟩
      · exact ⟨rfl, rfl, rfl, rfl⟩
      · rcases issue_cases v s with ⟨-, -, k⟩ | ⟨-, k⟩ <;> rw [k] <;> exact ⟨rfl, rfl, rfl, rfl⟩
      all_goals exact ⟨rfl, rfl, rfl, rfl⟩
    · exact ⟨rfl, rfl, rfl, rfl⟩
  · exact ⟨rfl, rfl, rfl, rfl⟩

/-! ### Error entry (R139, R142 to R144) -/

theorem ErrKind.code_eq_two {e : ErrKind} (h : e.code = 2) : e = .outOfMemory := by
  cases e <;> simp_all [ErrKind.code]

theorem raisers_outOfMemory_empty {i : Instr} {e : ErrKind} (h : i.opc ∈ raisers e) : e.code ≠ 2 := by
  intro hc
  rw [ErrKind.code_eq_two hc] at h
  cases h

theorem Ending.errcode {i : Instr} {s t : State} (h : Ending i s t) (hs : s.errcode ≠ 2) : t.errcode ≠ 2 := by
  cases h with
  | completed v => exact hs
  | failed e v he => exact raisers_outOfMemory_empty he

/-- Settles O15: no command is listed as a raiser of `OUT_OF_MEMORY`, and only error entry and the resets write
`ERRCODE`. -/
theorem outOfMemoryNeverRaised : Obligations.OutOfMemoryNeverRaised := by
  unfold Obligations.OutOfMemoryNeverRaised
  refine ⟨rfl, fun s t hs h => ?_⟩
  rcases step_cases h with ⟨-, h⟩ | ⟨-, rfl⟩ | ⟨off, n, rfl⟩ | ⟨off, n, v, rfl⟩ | ⟨-, rfl⟩
  · rcases coreStep_cases h with ⟨i, -, -, -, he⟩ | ⟨-, rfl⟩ | rfl
    · exact he.errcode hs
    · exact (by decide : (0 : BitVec 4) ≠ 2)
    · exact (by decide : ErrKind.invalidArgument.code ≠ 2)
  · exact hs
  · rcases regRead_state off n s.tick with k | k <;> rw [k] <;> exact hs
  · rw [(regWrite_keeps off n v s.tick).2.2.2]
    exact hs
  · exact (by decide : (0 : BitVec 4) ≠ 2)

/-- Settles O13: by the definitions of error entry and of the codes. -/
theorem errorEntryRecordsKind : Obligations.ErrorEntryRecordsKind := by
  unfold Obligations.ErrorEntryRecordsKind
  exact ⟨fun e s => ⟨raise_failed e s, rfl, rfl⟩, rfl, rfl, rfl, rfl, rfl, rfl, rfl, rfl, rfl⟩

/-- Settles O14: by how a command ends; `SOFT_RESET` clears `ERR`. -/
theorem errorsOnlyFromTheirCommands : Obligations.ErrorsOnlyFromTheirCommands := by
  unfold Obligations.ErrorsOnlyFromTheirCommands
  intro i s t hs h ht
  by_cases hi : i = .softReset
  · subst hi
    cases h
    cases ht
  · cases exec_ending hi h with
    | completed v => exact absurd (hs.symm.trans ht) (by decide)
    | failed e v he => exact ⟨e, he, rfl⟩

/-! ### The launch and the ports (R33, R34, R38, R64) -/

theorem Ending.launch_and_data {i : Instr} {s t : State} (h : Ending i s t) :
    t.launch = s.launch ∧ t.ports.inData = s.ports.inData ∧ s.ports.outData <+: t.ports.outData := by
  cases h with
  | completed v h => exact ⟨rfl, h.input, h.grows⟩
  | failed e v _ h => exact ⟨rfl, h.input, h.grows⟩

/-- Settles O20: a command moves the ports as its body may, and no other step writes them. -/
theorem launchFixedOutputGrows : Obligations.LaunchFixedOutputGrows := by
  unfold Obligations.LaunchFixedOutputGrows
  intro s t h
  rcases step_cases h with ⟨-, h⟩ | ⟨-, rfl⟩ | ⟨off, n, rfl⟩ | ⟨off, n, v, rfl⟩ | ⟨-, rfl⟩
  · rcases coreStep_cases h with ⟨i, -, -, -, he⟩ | ⟨-, rfl⟩ | rfl
    · exact he.launch_and_data
    all_goals exact ⟨rfl, rfl, List.prefix_refl _⟩
  · exact ⟨rfl, rfl, List.prefix_refl _⟩
  · rcases regRead_state off n s.tick with k | k <;> rw [k] <;> exact ⟨rfl, rfl, List.prefix_refl _⟩
  · obtain ⟨hl, hp, -, -⟩ := regWrite_keeps off n v s.tick
    rw [hl, hp]
    exact ⟨rfl, rfl, List.prefix_refl _⟩
  · exact ⟨rfl, rfl, List.prefix_refl _⟩

/-- Settles O22: a command has moved only the ports it needs when it ends, and error entry draws but moves no port. -/
theorem portFrames : Obligations.PortFrames := by
  unfold Obligations.PortFrames
  intro i s t h
  by_cases hi : i = .softReset
  · subst hi
    cases h
    exact ⟨⟨fun _ => rfl, fun _ => ⟨rfl, rfl⟩⟩, fun _ _ => rfl⟩
  · cases exec_ending hi h with
    | completed v m => exact ⟨⟨m.still, fun k => ⟨(m.silent k).1, (m.silent k).2.1⟩⟩, fun _ k => (m.silent k).2.2⟩
    | failed e v _ m => exact ⟨⟨m.still, fun k => ⟨(m.silent k).1, (m.silent k).2.1⟩⟩, fun k => by cases k⟩

/-! ### The checks before the body (R75) -/

theorem checked_no_port {rd wr prereq : Bool} {body : Work → Res Unit} {s : State}
    (h : ¬ ((rd = true → s.launch.inPresent = true) ∧ (wr = true → s.launch.outPresent = true))) :
    checked rd wr prereq body s = .next (raise .invalidArgument s) := by
  rcases checked_cases rd wr prereq body s with ⟨-, k⟩ | ⟨hi, ho, -⟩ | ⟨hi, ho, -⟩
  · exact k
  · exact absurd ⟨hi, ho⟩ h
  · exact absurd ⟨hi, ho⟩ h

theorem checked_no_prereq {rd wr : Bool} {body : Work → Res Unit} {s : State}
    (hi : rd = true → s.launch.inPresent = true) (ho : wr = true → s.launch.outPresent = true) :
    checked rd wr false body s = .next (raise .sequenceError s) := by
  rcases checked_cases rd wr false body s with ⟨⟨hr, hf⟩ | ⟨hw, hf⟩, -⟩ | ⟨-, -, -, k⟩ | ⟨-, -, hf, -⟩
  · rw [hi hr] at hf; cases hf
  · rw [ho hw] at hf; cases hf
  · exact k
  · cases hf

/-- Every command but `NOP` and `SOFT_RESET` is a checked body, with the ports and the prerequisite of the opcode map
(R64, R75). -/
theorem exec_eq_checked {i : Instr} (hw : i.wellFormed = true) (hn : i ≠ .nop) (hs : i ≠ .softReset) (s : State) :
    ∃ prereq body, exec i s = checked (needsIn i) (needsOut i) prereq body s ∧ (prereq = true ↔ Needs i s.core) := by
  cases i with
  | nop => exact absurd rfl hn
  | softReset => exact absurd rfl hs
  | genCodes => exact ⟨_, _, rfl, by simp [Core.builtTree, Needs]⟩
  | wrMagic => exact ⟨_, _, rfl, by simp [Core.writerEmpty, Needs]⟩
  | compress => exact ⟨_, _, rfl, by simp [Core.writerEmpty, Needs]⟩
  | decSym => exact ⟨_, _, rfl, by simp [Core.canDecode, Needs]⟩
  | decStream => exact ⟨_, _, rfl, by simp [Core.canDecode, Needs]⟩
  | pushBits n =>
    have hc : countLegal n = true := hw
    exact ⟨_, _, checkedCount_legal hc, by simp [Needs]⟩
  | pullBits n =>
    have hc : countLegal n = true := hw
    exact ⟨_, _, checkedCount_legal hc, Iff.rfl⟩
  | serTree => exact ⟨_, _, rfl, Iff.rfl⟩
  | encSym b => exact ⟨_, _, rfl, Iff.rfl⟩
  | encStream => exact ⟨_, _, rfl, Iff.rfl⟩
  | deserTree => exact ⟨_, _, rfl, Iff.rfl⟩
  | freqClear => exact ⟨true, freqClear, rfl, by simp [Needs]⟩
  | buildTree => exact ⟨true, buildTree, rfl, by simp [Needs]⟩
  | freqCount | flushPartial | finish | rdMagic | decompress =>
    exact ⟨true, _, rfl, by simp [Needs]⟩

/-- Settles O12: by the checks, in their order. -/
theorem checksInOrder : Obligations.ChecksInOrder := by
  unfold Obligations.ChecksInOrder
  refine ⟨fun s why h => ⟨_, coreStep_malformed h, raise_failed _ s, rfl⟩, fun i s hw hp => ?_,
    fun i s hw hp hn => ?_⟩
  · have h0 : i ≠ .nop := by rintro rfl; exact hp (by simp [PortsReady, needsIn, needsOut])
    have h1 : i ≠ .softReset := by rintro rfl; exact hp (by simp [PortsReady, needsIn, needsOut])
    obtain ⟨prereq, body, he, -⟩ := exec_eq_checked hw h0 h1 s
    exact ⟨_, he.trans (checked_no_port hp), raise_failed _ s, rfl⟩
  · have h0 : i ≠ .nop := by rintro rfl; exact hn trivial
    have h1 : i ≠ .softReset := by rintro rfl; exact hn trivial
    obtain ⟨prereq, body, he, hiff⟩ := exec_eq_checked hw h0 h1 s
    have hf : prereq = false := by simpa [hn] using hiff
    subst hf
    exact ⟨_, he.trans (checked_no_prereq hp.1 hp.2), raise_failed _ s, rfl⟩

/-! ### The FAILED state (R145 to R147) -/

/-- What the core's step does in the FAILED state, where only the words of `NOP` and `SOFT_RESET` are pending. -/
theorem coreStep_failed {s t : State} (h : coreStep s = .next t)
    (hp : s.pending = 0x00000000 ∨ s.pending = 0x00000001) :
    t = complete s ∨
      (s.pending = 0x00000001 ∧ t = complete { hardReset s with ie := s.ie, lastOpc := 0x01 }) := by
  rcases hp with hp | hp
  · rw [coreStep, hp, show decode 0x00000000 = .instr .nop by decide] at h
    cases h
    exact .inl rfl
  · rw [coreStep, hp, show decode 0x00000001 = .instr .softReset by decide] at h
    cases h
    exact .inr ⟨hp, rfl⟩

/-- Settles O16: while `ERR` is 1 no command but `NOP` and `SOFT_RESET` is pending, and no host access writes `ERR` or
`ERRCODE`. -/
theorem failedUntilReset : Obligations.FailedUntilReset := by
  unfold Obligations.FailedUntilReset
  rintro s t ⟨⟨-, -, hpending, -⟩, -⟩ he h
  rcases step_cases h with ⟨hb, h⟩ | ⟨-, rfl⟩ | ⟨off, n, rfl⟩ | ⟨off, n, v, rfl⟩ | ⟨hr, rfl⟩
  · rcases coreStep_failed h (hpending hb he) with rfl | ⟨hp, rfl⟩
    · exact .inl ⟨he, rfl⟩
    · exact .inr ⟨rfl, rfl, rfl, .inr ⟨hb, hp⟩⟩
  · exact .inl ⟨he, rfl⟩
  · rcases regRead_state off n s.tick with k | k <;> rw [k] <;> exact .inl ⟨he, rfl⟩
  · obtain ⟨-, -, herr, hcode⟩ := regWrite_keeps off n v s.tick
    exact .inl ⟨herr.trans he, hcode⟩
  · exact .inr ⟨rfl, rfl, rfl, .inl hr⟩

/-! ### The step by its events (R57, R73, R159, R161) -/

theorem coreStep_instr {s : State} {i : Instr} (h : decode s.pending = .instr i) : coreStep s = exec i s := by
  rw [coreStep, h]

theorem step_busy {s : State} (hb : s.busy = true) (ha : s.agenda = []) : step s = coreStep s := by
  simp [step, ha, hb]

theorem step_busy_core {s : State} {rest : List Event} (hb : s.busy = true) (ha : s.agenda = .core :: rest) :
    step s = coreStep { s with agenda := rest } := by
  simp [step, ha, hb]

theorem step_waits {s : State} (hb : s.busy = false) (ha : s.agenda = []) : step s = .next s := by
  simp [step, ha, hb]

/-- The step after `withFetchWord` is the core's, on the accepted word. -/
theorem step_withFetchWord (s : State) (w : Word) : step (s.withFetchWord 32 w.toNat) = coreStep (accept w s) := by
  rw [State.withFetchWord, Nat.mod_eq_of_lt w.isLt, BitVec.ofNat_toNat, BitVec.setWidth_eq]
  exact step_busy_core rfl rfl

/-- A step that is the core's on a malformed word raises `INVALID_ARGUMENT` and touches no port (R63). -/
theorem step_malformed {s u : State} {why : Malformed} (h : step u = coreStep s)
    (hd : decode s.pending = .malformed why) :
    ∃ t, step u = .next t ∧ Failed .invalidArgument s t ∧ t.ports = { s.ports with draws := t.ports.draws } :=
  ⟨_, h.trans (coreStep_malformed hd), raise_failed _ s, rfl⟩

/-- Settles O5: with the core to move, a step is the core's step. -/
theorem stepRunsDecodedCommand : Obligations.StepRunsDecodedCommand := by
  unfold Obligations.StepRunsDecodedCommand
  refine ⟨fun s i hb ha hd => (step_busy hb ha).trans (coreStep_instr hd),
    fun s i rest hb ha hd => (step_busy_core hb ha).trans (coreStep_instr hd),
    fun s i hw => (step_withFetchWord s _).trans (coreStep_instr (decode_encode hw)),
    fun s why hb ha hd => step_malformed (step_busy hb ha) hd,
    fun s why rest hb ha hd => ?_, fun s w why hd => step_malformed (step_withFetchWord s w) hd⟩
  exact step_malformed (s := { s with agenda := rest }) (step_busy_core hb ha) hd

theorem step_read {s : State} {off : Offset} {n : Nat} {rest : List Event} (ha : s.agenda = .read off n :: rest) :
    step s = .next { (regRead off n { s with agenda := rest }).2 with
      replies := (regRead off n { s with agenda := rest }).2.replies ++
        [(regRead off n { s with agenda := rest }).1] } := by
  simp [step, ha]

/-- Settles O6: `step` by the front of the agenda; a read leaves everything but the ports' draws. -/
theorem stepTakesEventsInOrder : Obligations.StepTakesEventsInOrder := by
  unfold Obligations.StepTakesEventsInOrder
  refine ⟨fun s => step_waits, fun s rest hb ha => by simp [step, ha, hb], fun s rest ha => by simp [step, ha],
    fun s off n v rest ha => by simp [step, ha], fun s off n rest ha => ⟨_, step_read ha, ?_⟩⟩
  rcases regRead_state off n { s with agenda := rest } with k | k
  · rw [k]
  · rw [k]
    rfl

/-! ### The resets (R161 to R163) -/

theorem Node.word_of_empty (n : Nat) : Node.empty.word n = 0 := by
  match n with
  | 0 | 1 | 2 | 3 | 4 | 5 => rfl
  | _ + 6 => rfl

/-- With the core state at its reset value every register but `CTRL` and `STATUS` reads 0 (R162). -/
theorem regWord_of_core_zero {s : State} (h : s.core = Core.zero) {r : Reg} (hc : r ≠ .ctrl) (hs : r ≠ .status) :
    regWord r s = 0 := by
  cases r with
  | ctrl => exact absurd rfl hc
  | status => exact absurd rfl hs
  | cmd => rfl
  | arg | result | tree | wb | rb0 | rb1 => simp only [regWord, h]; rfl
  | freq i => simp [regWord, h, Core.zero]
  | node i w => simp [regWord, h, Core.zero, Node.word_of_empty]
  | codeLen i => simp [regWord, h, Core.zero, fieldAt]
  | codeBits i j => simp [regWord, h, Core.zero]

/-- Settles O8: `SOFT_RESET` writes the reset values, its own opcode and `DONE`. -/
theorem softResetKeepsOnlyCtrl : Obligations.SoftResetKeepsOnlyCtrl := by
  unfold Obligations.SoftResetKeepsOnlyCtrl
  refine ⟨by decide, fun s =>
    ⟨_, rfl, rfl, ?_, fun r => regWord_of_core_zero rfl, rfl, rfl, rfl, rfl, ?_, ?_, rfl, rfl⟩⟩
  · rw [statusWord_of_core_zero rfl]
    simp [hardReset, flagAt, fieldAt]
  · simp [irq, hardReset]
  · change (s.ie && (true && !(0x00000002 : Word).getLsbD 1)) = false
    simp

/-- Settles O9: the reset value of every register is 0, and with `BUSY` 0 and no event the step changes nothing. -/
theorem hardResetClearsCoreState : Obligations.HardResetClearsCoreState := by
  unfold Obligations.HardResetClearsCoreState
  refine ⟨fun s => ⟨fun r => ?_, rfl, rfl, rfl, rfl, rfl, rfl, fun ha => step_waits rfl ha⟩,
    fun l x p a => ⟨rfl, rfl, rfl⟩⟩
  by_cases hc : r = .ctrl
  · subst hc; rfl
  · by_cases hs : r = .status
    · subst hs
      rw [regWord, statusWord_of_core_zero rfl]
      simp [hardReset, flagAt, fieldAt]
    · exact regWord_of_core_zero rfl hc hs

end Sys2Proof.Machine

/-! ## The open reader, whatever footer is to come (R106 to R108) -/

namespace Sys2Proof.Machine

/-- The reader is open with its cursor within the valid bits. A footer still to come may be illegal. -/
structure ReaderOpen (w : Work) : Prop where
  isOpen : w.core.hdrOk = true
  cursor : ReaderOk w.core

/-- On the final byte the footer has been checked. -/
theorem ReaderOpen.ready_of_final {w : Work} (h : ReaderOpen w) (hv : w.core.rbLa1V = false) : ReaderReady w := by
  obtain ⟨ho, hc⟩ := h
  refine ⟨ho, hc, ?_⟩
  simp only [ReaderOk, ho, hv, if_true, Bool.false_eq_true, if_false, Option.any_eq_true] at hc
  obtain ⟨n, hn, -⟩ := hc
  simp [GoodFooter, streamFrom, hv, hn]

/-- Loading the window while the reader is open: the cursor is at the first bit of the new byte, or the footer that ends
the stream is illegal (R106, R107). -/
theorem loadWindow_cases (cur la0 : Byte) (w : Work) :
    (∃ v, loadWindow cur la0 w = .raised .corruptData v ∧ w.ports.inData.length ≤ w.ports.inPos ∧
      footerCount la0 = none) ∨
    ∃ v, loadWindow cur la0 w = .ok () v ∧ v.core.rbPos = 0 ∧ v.core.hdrOk = w.core.hdrOk ∧
      (v.core.rbLa1V = true ∨ (footerCount v.core.rbLa0).isSome = true) ∧
      streamFrom v = cur :: la0 :: w.ports.inData.drop w.ports.inPos := by
  rcases readByte_cases w.ports with ⟨hl, -⟩ | ⟨hl, -⟩
  · rw [List.drop_eq_getElem_cons hl]
    exact .inr ⟨_, loadWindow_more (List.getElem?_eq_getElem hl), rfl, rfl, .inl rfl, rfl⟩
  · rw [List.drop_eq_nil_of_le hl]
    cases hf : footerCount la0 with
    | none =>
      obtain ⟨v, hv, -⟩ := loadWindow_bad_footer (cur := cur) (Work.ahead_eq_nil.mpr hl) hf
      exact .inl ⟨v, hv, hl, rfl⟩
    | some n => exact .inr ⟨_, loadWindow_final hl hf, rfl, rfl, .inr (by simp [hf]), rfl⟩

/-- A cursor at the first bit is within the valid bits (R106, R107). -/
theorem readerOk_of_start {c : Core} (ho : c.hdrOk = true) (hp : c.rbPos = 0)
    (hf : c.rbLa1V = true ∨ (footerCount c.rbLa0).isSome = true) : ReaderOk c := by
  rcases hf with hf | hf
  · simp [ReaderOk, ho, hf, hp]
  · obtain ⟨n, hn⟩ := Option.isSome_iff_exists.mp hf
    cases hv : c.rbLa1V <;> simp [ReaderOk, ho, hv, hp, hn]

/-- Before the final byte there is a bit to give: `next_bit` gives it, or it finds an illegal footer behind it (R107,
R108). -/
theorem ReaderOpen.nextBit_more {w : Work} (h : ReaderOpen w) (hv : w.core.rbLa1V = true) :
    bitsLeft w ≠ [] ∧
      ((∃ v, nextBit w = .raised .corruptData v) ∨
        ∃ b v, nextBit w = .ok b v ∧ ReaderOpen v ∧ bitsLeft w = b :: bitsLeft v) := by
  obtain ⟨ho, hc⟩ := h
  simp only [ReaderOk, ho, hv, if_true] at hc
  have he : w.core.rbEnd = false := by simp [Core.rbEnd, Core.rbFinal, hv]
  have hb := bitsLeft_more hv (Nat.le_of_lt hc)
  rw [byteBits_drop _ hc] at hb
  refine ⟨by simp [hb], ?_⟩
  by_cases h7 : w.core.rbPos = 7
  · rw [nextBit_advance he h7 hv, advance]
    rcases loadWindow_cases w.core.rbLa0 w.core.rbLa1 (w.setCore w.core.moveCursor) with
      ⟨v, ha, -⟩ | ⟨v, ha, hz, hopen, hfoot, hs⟩
    · exact .inl ⟨v, by simp [ha]⟩
    · have ho' : v.core.hdrOk = true := hopen.trans ho
      refine .inr ⟨w.core.rbCur.getLsbD 0, v, by simp [ha], ⟨ho', readerOk_of_start ho' hz hfoot⟩, ?_⟩
      rw [hb, bitsLeft_at_zero hz, hs, h7]
      rfl
  · have hp : w.core.rbPos.toNat ≠ 7 := fun k => h7 (BitVec.eq_of_toNat_eq k)
    have hv' : (w.setCore w.core.moveCursor).core.rbLa1V = true := hv
    refine .inr ⟨_, _, nextBit_inside he hc (.inl h7), ⟨ho, ?_⟩, ?_⟩
    · simp only [ReaderOk, Work.setCore_core, Core.moveCursor_hdrOk, Core.moveCursor_rbLa1V, ho, hv, if_true,
        Core.moveCursor_rbPos]
      bv_omega
    · rw [hb, bitsLeft_more hv' (by rw [moveCursor_pos hc]; omega), moveCursor_pos hc]
      rfl

/-- `next_bit` gives the first of the bits left, or raises `CORRUPT_DATA`: at the end, or at an illegal footer (R107,
R108). -/
theorem ReaderOpen.nextBit_cases {w : Work} (h : ReaderOpen w) :
    (∃ v, nextBit w = .raised .corruptData v) ∨
    ∃ b v, nextBit w = .ok b v ∧ ReaderOpen v ∧ bitsLeft w = b :: bitsLeft v := by
  cases hv : w.core.rbLa1V with
  | true => exact (h.nextBit_more hv).2
  | false =>
    rcases Machine.nextBit_cases (h.ready_of_final hv) with ⟨-, hend⟩ | ⟨b, v, hok, hready, hb⟩
    · exact .inl ⟨w, hend⟩
    · exact .inr ⟨b, v, hok, ⟨hready.isOpen, hready.cursor⟩, hb⟩

/-! ### Bodies that always have a next state (R78) -/

/-- A body that ends in no fault, and of whose success P holds. -/
def Res.Safe {α : Type} (r : Res α) (P : α → Work → Prop) : Prop := r.Post P (fun _ _ => True) (fun _ => False)

theorem Res.Safe.bind {α β : Type} {r : Res α} {k : α → Work → Res β} {P : α → Work → Prop} {Q : β → Work → Prop}
    (h : r.Safe P) (hk : ∀ a v, r = .ok a v → P a v → (k a v).Safe Q) : (r.bind k).Safe Q := by
  cases r with
  | ok a v => exact hk a v rfl h
  | raised e v => trivial
  | stuck f => exact h

/-- A body known to end in no fault is safe for what its successes satisfy. -/
theorem Res.Post.safe {α : Type} {r : Res α} {P Q : α → Work → Prop} {E : ErrKind → Work → Prop}
    (h : r.Post P E (fun _ => False)) (hQ : ∀ a v, r = .ok a v → P a v → Q a v) : r.Safe Q := by
  cases r with
  | ok a v => exact hQ a v rfl h
  | raised e v => trivial
  | stuck f => exact h

theorem ReaderOpen.nextBit_safe {w : Work} (h : ReaderOpen w) :
    (nextBit w).Safe fun b v => ReaderOpen v ∧ bitsLeft w = b :: bitsLeft v := by
  rcases h.nextBit_cases with ⟨v, hv⟩ | ⟨b, v, hv, hopen, hb⟩ <;> rw [hv]
  · trivial
  · exact ⟨hopen, hb⟩

theorem ReaderOpen.readBits_safe {w : Work} (h : ReaderOpen w) (n : Nat) (x : Word) :
    (readBits n x w).Safe fun _ v => ReaderOpen v := by
  induction n generalizing x w with
  | zero => exact h
  | succ n ih => exact h.nextBit_safe.bind fun b v _ hv => ih hv.1 _

/-- The walk down the tree in the arena ends within its bound, at a leaf (R78, R127). -/
theorem ReaderOpen.decodeFrom_safe {k d : Nat} {i : Slot} {w : Work} {z o : Tree} (h : ReaderOpen w)
    (ht : w.core.treeAt d i = some (.node z o)) (hk : (bitsLeft w).length < k) :
    (decodeFrom k i w).Safe fun _ v => ReaderOpen v ∧ (bitsLeft v).length < (bitsLeft w).length := by
  induction k generalizing d i w z o with
  | zero => omega
  | succ k ih =>
    rcases h.nextBit_cases with ⟨v, hv⟩ | ⟨b, v, hv, hopen, hbits⟩
    · rw [decodeFrom, hv]
      trivial
    have hlen : (bitsLeft v).length < (bitsLeft w).length := by rw [hbits]; exact Nat.lt_succ_self _
    have hmoves := (nextBit_post w).of_ok hv
    obtain ⟨d, rfl⟩ := exists_succ_of_treeAt ht
    have hsub : v.core.treeAt d (v.core.child i b) = some (if b then o else z) := by
      rw [treeAt_of_node_eq hmoves.node, hmoves.child]
      exact treeAt_child ht b
    rw [decodeFrom_bit hv]
    obtain ⟨d, rfl⟩ := exists_succ_of_treeAt hsub
    rcases treeAt_succ_cases hsub with ⟨hn, ⟨hl, -⟩ | ⟨z', o', hl, -, -, hnode⟩⟩
    · rw [if_neg hn, if_pos hl]
      exact ⟨hopen, hlen⟩
    · rw [if_neg hn, if_neg (by simp [hl])]
      rw [hnode] at hsub
      exact Res.Post.safe (ih hopen hsub (by omega)) fun _ _ _ hu => ⟨hu.1, hu.2.trans hlen⟩

theorem ReaderOpen.decodeOne_safe {w : Work} {tr : Tree} (h : ReaderOpen w) (ht : w.core.tree = some tr) :
    (decodeOne w).Safe fun _ v => ReaderOpen v ∧ (bitsLeft v).length < (bitsLeft w).length := by
  unfold decodeOne
  dsimp only
  rcases treeAt_succ_cases ht with ⟨hn, ⟨hl, -⟩ | ⟨z, o, hl, -, -, rfl⟩⟩
  · rw [if_neg hn, if_pos hl]
    refine h.nextBit_safe.bind fun b v _ ⟨hopen, hb⟩ => ?_
    split
    · trivial
    · exact ⟨hopen, by rw [hb]; exact Nat.lt_succ_self _⟩
  · rw [if_neg hn, if_neg (by simp [hl])]
    exact h.decodeFrom_safe ht (bitsLeft_length_lt w)

/-- The reader's part of a state, which the writer does not move. -/
theorem WriterMoves.readerOpen {w v : Work} (h : WriterMoves w v) (hw : ReaderOpen w) :
    ReaderOpen v ∧ bitsLeft v = bitsLeft w := by
  obtain ⟨ho, hc⟩ := hw
  refine ⟨⟨by rw [h.core]; exact ho, by rw [h.core]; exact hc⟩, ?_⟩
  simp only [bitsLeft, streamFrom]
  rw [h.core, h.ports.only]
  rfl

theorem WriterMoves.tree {w v : Work} (h : WriterMoves w v) : v.core.tree = w.core.tree := by
  have hr : v.core.root = w.core.root := by rw [h.core, Core.setWb_root]
  unfold Core.tree
  rw [h.treeAt, hr]

/-- The passes of `DEC_STREAM` end within their bound, with the reader open (R78, R129). -/
theorem ReaderOpen.decodeAll_safe {k : Nat} {w : Work} {tr : Tree} (h : ReaderOpen w) (ht : w.core.tree = some tr)
    (hk : (bitsLeft w).length < k) : (decodeAll k w).Safe fun _ v => ReaderOpen v := by
  induction k generalizing w with
  | zero => omega
  | succ k ih =>
    unfold decodeAll
    split
    · exact h
    · refine (h.decodeOne_safe ht).bind fun b u hu ⟨hopen, hlen⟩ => ?_
      refine ((emit_post b u).safe fun _ _ _ => id).bind fun _ v _ hm => ?_
      obtain ⟨hopen', hb⟩ := hm.readerOpen hopen
      have htree := hm.tree.trans (((decodeOne_post w).of_ok hu).tree.trans ht)
      exact ih hopen' htree (by rw [hb]; omega)

end Sys2Proof.Machine

/-! ## The arena that `DESER_TREE` leaves, with its links (R25 to R27, R118) -/

namespace Sys2Proof.Machine

/-- The nodes of a tree as the deserializer makes them: in preorder from slot i on, its root on side `side` of slot
`parent` (R27, R118). -/
def Hung (c : Core) : Tree → Nat → Slot → Bool → Prop
  | .leaf b, i, parent, side => c.nodeAt (BitVec.ofNat 9 i) = readLeaf parent side b
  | .node z o, i, parent, side =>
    c.nodeAt (BitVec.ofNat 9 i) =
      { readInternal parent side with c0 := BitVec.ofNat 9 (i + 1), c1 := BitVec.ofNat 9 (i + 1 + z.slots) } ∧
    Hung c z (i + 1) (BitVec.ofNat 9 i) false ∧ Hung c o (i + 1 + z.slots) (BitVec.ofNat 9 i) true

/-- A tree stays hung while its slots stay as they are. -/
theorem Hung.congr {c d : Core} {t : Tree} {i : Nat} {parent : Slot} {side : Bool} (hi : i + t.slots ≤ 512)
    (hn : ∀ j : Slot, i ≤ j.toNat → j.toNat < i + t.slots → d.nodeAt j = c.nodeAt j) (h : Hung c t i parent side) :
    Hung d t i parent side := by
  have hpos := t.slots_pos
  have hi' : (BitVec.ofNat 9 i : Slot).toNat = i := slot_toNat (by omega)
  have hroot := hn (BitVec.ofNat 9 i) (by omega) (by omega)
  induction t generalizing i parent side with
  | leaf b => exact hroot.trans h
  | node z o hz ho =>
    obtain ⟨h0, h1, h2⟩ := h
    have hslots := Tree.slots_node z o
    have pz := z.slots_pos
    have po := o.slots_pos
    refine ⟨hroot.trans h0, ?_, ?_⟩
    · exact hz (by omega) (fun j _ _ => hn j (by omega) (by omega)) h1 pz (slot_toNat (by omega))
        (hn _ (by rw [slot_toNat (by omega)]; omega) (by rw [slot_toNat (by omega)]; omega))
    · exact ho (by omega) (fun j _ _ => hn j (by omega) (by omega)) h2 po (slot_toNat (by omega))
        (hn _ (by rw [slot_toNat (by omega)]; omega) (by rw [slot_toNat (by omega)]; omega))

/-- The root of a hung tree holds a node, joined upwards. -/
theorem Hung.root {c : Core} {t : Tree} {i : Nat} {parent : Slot} {side : Bool} (h : Hung c t i parent side) :
    (c.nodeAt (BitVec.ofNat 9 i)).valid = true ∧ (c.nodeAt (BitVec.ofNat 9 i)).parent = parent ∧
      (c.nodeAt (BitVec.ofNat 9 i)).side = side := by
  cases t with
  | leaf b => rw [show c.nodeAt _ = _ from h]; exact ⟨rfl, rfl, rfl⟩
  | node z o => rw [h.1]; exact ⟨rfl, rfl, rfl⟩

/-- From i on, the deserializer has made tree `t` between c and d, and left every other slot. -/
structure Grown (t : Tree) (i : Nat) (parent : Slot) (side : Bool) (c d : Core) : Prop where
  hung : Hung d t i parent side
  others : ∀ j : Slot, j.toNat < i ∨ i + t.slots ≤ j.toNat → d.nodeAt j = c.nodeAt j

theorem Grown.of_node_eq {t : Tree} {i : Nat} {parent : Slot} {side : Bool} {b c d : Core}
    (h : Grown t i parent side c d) (hn : c.node = b.node) : Grown t i parent side b d :=
  ⟨h.hung, fun j hj => (h.others j hj).trans (nodeAt_of_node_eq hn j)⟩

theorem grown_leaf {i : Nat} (hi : i < 511) (c : Core) (parent : Slot) (side : Bool) (b : Byte) :
    Grown (.leaf b) i parent side c (c.setNode (BitVec.ofNat 9 i) (readLeaf parent side b)) := by
  refine ⟨nodeAt_setNode_same _ _ _ (slot_ne_null hi), fun j hj => nodeAt_setNode_other _ _ ?_⟩
  rintro rfl
  rw [slot_toNat (by omega), show (Tree.leaf b).slots = 1 from rfl] at hj
  omega

/-- An internal node and both its subtrees, made in the order of R118. -/
theorem grown_node {z o : Tree} {i : Nat} {c c₁ c₂ : Core} {parent : Slot} {side : Bool}
    (hi : i + (Tree.node z o).slots ≤ 511)
    (hz : Grown z (i + 1) (BitVec.ofNat 9 i) false (c.setNode (BitVec.ofNat 9 i) (readInternal parent side)) c₁)
    (ho : Grown o (i + 1 + z.slots) (BitVec.ofNat 9 i) true
      (c₁.setNode (BitVec.ofNat 9 i) { c₁.nodeAt (BitVec.ofNat 9 i) with c0 := BitVec.ofNat 9 (i + 1) }) c₂) :
    Grown (.node z o) i parent side c
      (c₂.setNode (BitVec.ofNat 9 i) { c₂.nodeAt (BitVec.ofNat 9 i) with c1 := BitVec.ofNat 9 (i + 1 + z.slots) }) := by
  have hslots := Tree.slots_node z o
  have pz := z.slots_pos
  have po := o.slots_pos
  have hnull : (BitVec.ofNat 9 i : Slot) ≠ Config.nullSlot := slot_ne_null (by omega)
  have hi' : (BitVec.ofNat 9 i : Slot).toNat = i := slot_toNat (by omega)
  have hne {j : Slot} (hj : j.toNat ≠ i) : j ≠ BitVec.ofNat 9 i := by rintro rfl; exact hj hi'
  have n₁ : c₁.nodeAt (BitVec.ofNat 9 i) = readInternal parent side := by
    rw [hz.others _ (by omega), nodeAt_setNode_same _ _ _ hnull]
  have n₂ : c₂.nodeAt (BitVec.ofNat 9 i) = { readInternal parent side with c0 := BitVec.ofNat 9 (i + 1) } := by
    rw [ho.others _ (by omega), nodeAt_setNode_same _ _ _ hnull, n₁]
  refine ⟨⟨?_, ?_, ?_⟩, fun j hj => ?_⟩
  · rw [nodeAt_setNode_same _ _ _ hnull, n₂]
  · refine hz.hung.congr (by omega) fun j h1 h2 => ?_
    rw [nodeAt_setNode_other _ _ (hne (by omega)), ho.others j (by omega), nodeAt_setNode_other _ _ (hne (by omega))]
  · exact ho.hung.congr (by omega) fun j h1 h2 => nodeAt_setNode_other _ _ (hne (by omega))
  · rw [nodeAt_setNode_other _ _ (hne (by omega)), ho.others j (by omega), nodeAt_setNode_other _ _ (hne (by omega)),
      hz.others j (by omega), nodeAt_setNode_other _ _ (hne (by omega))]

theorem ReaderOpen.putNode {w : Work} (h : ReaderOpen w) (i : Slot) (n : Node) : ReaderOpen (putNode i n w) :=
  ⟨h.isOpen, h.cursor⟩

/-- What the deserializer answers after a tree `t`, and what it leaves (R118). -/
structure Deserialized (parent : Slot) (side : Bool) (t : Tally) (w : Work) (r : Slot × Tally) (v : Work) (tr : Tree) :
    Prop where
  openReader : ReaderOpen v
  small : t.nint + tr.internals ≤ 255
  answer : r = (BitVec.ofNat 9 t.nextSlot,
    { nextSlot := t.nextSlot + tr.slots, nint := t.nint + tr.internals, nleaf := t.nleaf + tr.leaves })
  grown : Grown tr t.nextSlot parent side w.core v.core

/-- The deserializer ends within its levels, and where it goes through it has made a tree (R78, R118). -/
theorem ReaderOpen.deser_safe {d : Nat} {parent : Slot} {side : Bool} {t : Tally} {w : Work} (h : ReaderOpen w)
    (hn : t.nint ≤ 255) (hs : t.nextSlot ≤ 2 * t.nint) (hd : 256 ≤ d + t.nint) :
    (deser d parent side t w).Safe fun r v => ∃ tr, Deserialized parent side t w r v tr := by
  induction d generalizing parent side t w with
  | zero => omega
  | succ d ih =>
    unfold deser
    refine h.nextBit_safe.bind fun b u hu ⟨hopen, _⟩ => ?_
    have hnode := ((nextBit_post w).of_ok hu).node_eq
    cases b with
    | true =>
      simp only [if_true]
      refine (hopen.readBits_safe 8 0).bind fun x v hv hopen' => ?_
      have hnode' : v.core.node = w.core.node := (((readBits_post _ _ _).of_ok hv).node_eq).trans hnode
      exact ⟨.leaf (x.setWidth 8), hopen'.putNode _ _, hn, rfl,
        (grown_leaf (by omega) v.core parent side _).of_node_eq hnode'⟩
    | false =>
      simp only [Bool.false_eq_true, if_false]
      split
      · trivial
      next hlt =>
        have hn1 : t.nint + 1 ≤ 255 := by simpa using hlt
        refine (ih (hopen.putNode _ _) hn1 (by simp only; omega) (by simp only; omega)).bind ?_
        rintro _ v₁ - ⟨z, r₁, s₁, rfl, g₁⟩
        have lz := z.leaves_eq
        have sz : z.slots = z.internals + z.leaves := rfl
        simp only at s₁
        refine (ih (r₁.putNode _ _) s₁ (by simp only; omega) (by simp only; omega)).bind ?_
        rintro _ v₂ - ⟨o, r₂, s₂, rfl, g₂⟩
        have lo := o.leaves_eq
        have so : o.slots = o.internals + o.leaves := rfl
        have hslots := Tree.slots_node z o
        simp only at s₂
        refine ⟨.node z o, r₂.putNode _ _, ?_, ?_, ?_⟩
        · simp only [Tree.internals]
          omega
        · simp only [hslots, Tree.internals, Tree.leaves, Nat.add_assoc]
        · exact (grown_node (by omega) g₁ g₂).of_node_eq hnode

end Sys2Proof.Machine

/-! ### A tree that fills the arena from slot 0 on (R24 to R27) -/

namespace Sys2Proof.Machine

theorem Hung.laidOut {c : Core} {t : Tree} {i : Nat} {parent : Slot} {side : Bool} (hi : i + t.slots ≤ 511)
    (h : Hung c t i parent side) : laidOut c t i := by
  induction t generalizing i parent side with
  | leaf b =>
    simp only [Machine.laidOut]
    rw [show c.nodeAt _ = _ from h]
    exact ⟨rfl, rfl⟩
  | node z o hz ho =>
    obtain ⟨h0, h1, h2⟩ := h
    have hslots := Tree.slots_node z o
    have lz := z.two_mul_leaves
    have pz := z.slots_pos
    have po := o.slots_pos
    simp only [Machine.laidOut]
    rw [h0]
    refine ⟨rfl, slot_toNat (by omega), hz (by omega) h1, ?_, ?_⟩
    · rw [slot_toNat (by omega)]
      omega
    · rw [show i + 2 * z.leaves = i + 1 + z.slots by omega]
      exact ho (by omega) h2

theorem Hung.valid {c : Core} {t : Tree} {i : Nat} {parent : Slot} {side : Bool} (h : Hung c t i parent side) {j : Nat}
    (hj : i ≤ j) (hlt : j < i + t.slots) : (c.nodeAt (BitVec.ofNat 9 j)).valid = true := by
  rcases Nat.eq_or_lt_of_le hj with rfl | hj
  · exact h.root.1
  induction t generalizing i parent side with
  | leaf b => rw [show (Tree.leaf b).slots = 1 from rfl] at hlt; omega
  | node z o hz ho =>
    obtain ⟨-, h1, h2⟩ := h
    rw [Tree.slots_node] at hlt
    by_cases hjz : j < i + 1 + z.slots
    · rcases Nat.eq_or_lt_of_le hj with rfl | hj
      · exact h1.root.1
      · exact hz h1 (Nat.le_of_lt hj) hjz hj
    · rcases Nat.eq_or_lt_of_le (Nat.le_of_not_lt hjz) with rfl | hj
      · exact h2.root.1
      · exact ho h2 (Nat.le_of_lt hj) (by omega) hj

/-- The node at slot i is joined upwards: it is the root, or its parent has it as the child on its side (R25, R26). -/
def JoinedUp (c : Core) (i parent : Slot) (side : Bool) : Prop :=
  if i = c.root then parent = Config.nullSlot ∧ side = false
  else parent ≠ Config.nullSlot ∧ (c.nodeAt parent).valid = true ∧ (c.nodeAt parent).leaf = false ∧
    (c.nodeAt parent).child side = i

/-- What links a node, upwards and downwards (R25, R26). -/
theorem linked_of_joined {c : Core} {i : Slot} (hup : JoinedUp c i (c.nodeAt i).parent (c.nodeAt i).side)
    (hleaf : (c.nodeAt i).leaf = true → (c.nodeAt i).c0 = Config.nullSlot ∧ (c.nodeAt i).c1 = Config.nullSlot)
    (hinner : (c.nodeAt i).leaf = false → ∀ side, (c.nodeAt i).child side ≠ Config.nullSlot ∧
      (c.nodeAt ((c.nodeAt i).child side)).valid = true ∧ (c.nodeAt ((c.nodeAt i).child side)).parent = i ∧
      (c.nodeAt ((c.nodeAt i).child side)).side = side) : linked c i = true := by
  rw [linked, Bool.and_eq_true]
  constructor
  · unfold JoinedUp at hup
    by_cases hr : i = c.root
    · rw [if_pos hr] at hup
      rw [if_pos (beq_iff_eq.mpr hr)]
      simp [hup]
    · rw [if_neg hr] at hup
      obtain ⟨hp, hv, hl, hc⟩ := hup
      rw [if_neg (by simpa using hr)]
      cases hs : (c.nodeAt i).side <;> simp_all [Node.child]
  · cases hl : (c.nodeAt i).leaf with
    | true => simp [hleaf hl]
    | false =>
      obtain ⟨n0, v0, p0, s0⟩ := hinner hl false
      obtain ⟨n1, v1, p1, s1⟩ := hinner hl true
      simp_all [Node.child]

/-- Every node of a hung tree is linked, once its root is joined upwards (R25, R26). -/
theorem Hung.linked {c : Core} {t : Tree} {i : Nat} {parent : Slot} {side : Bool} (hi : i + t.slots ≤ 511)
    (h : Hung c t i parent side) (hroot : c.root.toNat ≤ i) (hup : JoinedUp c (BitVec.ofNat 9 i) parent side) {j : Nat}
    (hj : i ≤ j) (hlt : j < i + t.slots) :
    linked c (BitVec.ofNat 9 j) = true := by
  induction t generalizing i parent side with
  | leaf b =>
    obtain rfl : j = i := by rw [show (Tree.leaf b).slots = 1 from rfl] at hlt; omega
    have hn : c.nodeAt (BitVec.ofNat 9 j) = readLeaf parent side b := h
    refine linked_of_joined ?_ (fun _ => ?_) (fun hl => ?_) <;> rw [hn] at *
    · exact hup
    · exact ⟨rfl, rfl⟩
    · cases hl
  | node z o hz ho =>
    have hslots := Tree.slots_node z o
    have pz := z.slots_pos
    have po := o.slots_pos
    obtain ⟨h0, h1, h2⟩ := h
    have hdown (side' : Bool) {k : Nat} (hk : i < k) (hk' : k < 511)
        (hc : (c.nodeAt (BitVec.ofNat 9 i)).child side' = BitVec.ofNat 9 k) :
        JoinedUp c (BitVec.ofNat 9 k) (BitVec.ofNat 9 i) side' := by
      have hne : (BitVec.ofNat 9 k : Slot) ≠ c.root := by
        intro e
        rw [← e, slot_toNat (by omega)] at hroot
        omega
      rw [JoinedUp, if_neg hne]
      exact ⟨slot_ne_null (by omega), by rw [h0]; rfl, by rw [h0]; rfl, hc⟩
    rcases Nat.eq_or_lt_of_le hj with rfl | hj
    · refine linked_of_joined (by rw [h0]; exact hup) (fun hl => by rw [h0] at hl; cases hl) fun _ side' => ?_
      rw [h0]
      cases side' with
      | false => exact ⟨slot_ne_null (by omega), h1.root⟩
      | true => exact ⟨slot_ne_null (by omega), h2.root⟩
    · by_cases hjz : j < i + 1 + z.slots
      · exact hz (by omega) h1 (by omega) (hdown false (by omega) (by omega) (by rw [h0]; rfl)) hj hjz
      · exact ho (by omega) h2 (by omega) (hdown true (by omega) (by omega) (by rw [h0]; rfl)) (by omega) (by omega)

theorem climb_mono {c : Core} {k m : Nat} {i : Slot} {sides : List Bool} (h : climb c k i = some sides) (hkm : k ≤ m) :
    climb c m i = some sides := by
  induction k generalizing m i sides with
  | zero => cases h
  | succ k ih =>
    obtain ⟨m, rfl⟩ := Nat.exists_eq_succ_of_ne_zero (n := m) (by omega)
    rcases climb_succ_cases h with ⟨hn, ⟨hp, rfl⟩ | ⟨rest, hp, hr, rfl⟩⟩
    · exact climb_succ_root hn hp
    · exact climb_succ_child hn hp (ih hr (by omega))

/-- Every node of a hung tree leads up to where its root leads, within as many levels more as the tree has internal
nodes (R92, R95). -/
theorem Hung.climb {c : Core} {t : Tree} {i : Nat} {parent : Slot} {side : Bool} (hi : i + t.slots ≤ 511)
    (h : Hung c t i parent side) {k : Nat} {sides : List Bool} (hk : climb c k (BitVec.ofNat 9 i) = some sides)
    {j : Nat}
    (hj : i ≤ j) (hlt : j < i + t.slots) :
    ∃ sides', climb c (k + t.internals) (BitVec.ofNat 9 j) = some sides' := by
  rcases Nat.eq_or_lt_of_le hj with rfl | hj
  · exact ⟨_, climb_mono hk (Nat.le_add_right _ _)⟩
  induction t generalizing i parent side k sides with
  | leaf b => rw [show (Tree.leaf b).slots = 1 from rfl] at hlt; omega
  | node z o hz ho =>
    have hslots := Tree.slots_node z o
    have pz := z.slots_pos
    have po := o.slots_pos
    obtain ⟨h0, h1, h2⟩ := h
    have hnull : (BitVec.ofNat 9 i : Slot) ≠ Config.nullSlot := slot_ne_null (by omega)
    have hchild {u : Tree} {m : Nat} {sd : Bool} (hu : Hung c u m (BitVec.ofNat 9 i) sd) (hm : m < 511) :
        ∃ q, Machine.climb c (k + 1) (BitVec.ofNat 9 m) = some q :=
      ⟨_, climb_succ_child (slot_ne_null hm) (by rw [hu.root.2.1]; exact hnull) (by rw [hu.root.2.1]; exact hk)⟩
    obtain ⟨q1, c1⟩ := hchild h1 (by omega)
    obtain ⟨q2, c2⟩ := hchild h2 (by omega)
    simp only [Tree.internals]
    by_cases hjz : j < i + 1 + z.slots
    · obtain ⟨q, hq⟩ : ∃ q, Machine.climb c (k + 1 + z.internals) (BitVec.ofNat 9 j) = some q := by
        rcases Nat.eq_or_lt_of_le hj with rfl | hj'
        · exact ⟨_, climb_mono c1 (Nat.le_add_right _ _)⟩
        · exact hz (by omega) h1 c1 (by omega) hjz hj'
      exact ⟨q, climb_mono hq (by omega)⟩
    · obtain ⟨q, hq⟩ : ∃ q, Machine.climb c (k + 1 + o.internals) (BitVec.ofNat 9 j) = some q := by
        rcases Nat.eq_or_lt_of_le (show i + 1 + z.slots ≤ j by omega) with rfl | hj'
        · exact ⟨_, climb_mono c2 (Nat.le_add_right _ _)⟩
        · exact ho (by omega) h2 c2 (by omega) (by omega) hj'
      exact ⟨q, climb_mono hq (by omega)⟩

/-- Whether slot number i holds a leaf. -/
def holdsLeaf (c : Core) (i : Nat) : Bool := (c.nodeAt (BitVec.ofNat 9 i)).valid && (c.nodeAt (BitVec.ofNat 9 i)).leaf

theorem leafSlots_length_eq (c : Core) : (leafSlots c).length = (List.range 511).countP (holdsLeaf c) := by
  rw [leafSlots_eq, allSlots, ← List.countP_eq_length_filter, List.countP_map]
  rfl

theorem Hung.countP_leaves {c : Core} {t : Tree} {i : Nat} {parent : Slot} {side : Bool} (h : Hung c t i parent side) :
    (List.range' i t.slots).countP (holdsLeaf c) = t.leaves := by
  induction t generalizing i parent side with
  | leaf b =>
    have hn : c.nodeAt (BitVec.ofNat 9 i) = readLeaf parent side b := h
    simp [show (Tree.leaf b).slots = 1 from rfl, holdsLeaf, hn, readLeaf, Tree.leaves]
  | node z o hz ho =>
    obtain ⟨h0, h1, h2⟩ := h
    rw [Tree.slots_node, show 1 + z.slots + o.slots = (z.slots + o.slots) + 1 by omega, List.range'_succ,
      ← List.range'_append_1, List.countP_cons, List.countP_append, hz h1, ho h2]
    simp [holdsLeaf, h0, readInternal, Tree.leaves]

/-- A tree of at most 255 internal nodes hung from slot 0 on, with no other node in the arena. -/
structure Fills (c : Core) (t : Tree) : Prop where
  small : t.internals ≤ 255
  hung : Hung c t 0 Config.nullSlot false
  others : ∀ j : Slot, t.slots ≤ j.toNat → c.nodeAt j = Node.empty
  root : c.root = 0

section Fills

variable {c : Core} {t : Tree}

theorem Fills.slots_le (h : Fills c t) : t.slots ≤ 511 := by
  have := t.leaves_eq
  have := h.small
  unfold Tree.slots
  omega

theorem Fills.linked_of_lt (h : Fills c t) {j : Nat} (hj : j < t.slots) : linked c (BitVec.ofNat 9 j) = true := by
  have hroot : (BitVec.ofNat 9 0 : Slot) = c.root := h.root.symm
  refine h.hung.linked (by rw [Nat.zero_add]; exact h.slots_le) (by rw [h.root]; rfl) ?_ (Nat.zero_le j) (by omega)
  rw [JoinedUp, if_pos hroot]
  exact ⟨rfl, rfl⟩

theorem Fills.empty (h : Fills c t) {i : Slot} (hi : (c.nodeAt i).valid = false) : c.nodeAt i = Node.empty := by
  refine h.others i (Nat.le_of_not_lt fun hlt => ?_)
  have hv := h.hung.valid (j := i.toNat) (Nat.zero_le _) (by omega)
  rw [← slot_eq rfl, hi] at hv
  cases hv

theorem Fills.lt_of_valid (h : Fills c t) {i : Slot} (hi : (c.nodeAt i).valid = true) : i.toNat < t.slots := by
  by_contra hge
  rw [h.others i (by omega)] at hi
  cases hi

theorem Fills.linked (h : Fills c t) {i : Slot} (hi : (c.nodeAt i).valid = true) : linked c i = true := by
  rw [slot_eq (show i.toNat = i.toNat from rfl)]
  exact h.linked_of_lt (h.lt_of_valid hi)

theorem Fills.climb (h : Fills c t) {i : Slot} (hi : (c.nodeAt i).valid = true) : (climb c 256 i).isSome = true := by
  have hle := h.slots_le
  have hroot : Machine.climb c 1 (BitVec.ofNat 9 0) = some [] := climb_succ_root (by decide) h.hung.root.2.1
  rw [slot_eq (show i.toNat = i.toNat from rfl)]
  obtain ⟨q, hq⟩ := h.hung.climb (j := i.toNat) (by omega) hroot (Nat.zero_le _)
    (by have := h.lt_of_valid hi; omega)
  rw [climb_mono hq (by have := h.small; omega)]
  rfl

theorem Fills.tree (h : Fills c t) : c.tree = some t := by
  have hle := h.slots_le
  have hsmall := h.small
  have ht := treeAt_of_laidOut (d := 256) (h.hung.laidOut (by omega)) (by omega) (by omega)
  rw [Core.tree, h.root]
  exact ht

theorem Fills.leafSlots_length (h : Fills c t) : (leafSlots c).length = t.leaves := by
  have hle := h.slots_le
  have hrest : (List.range' t.slots (511 - t.slots)).countP (holdsLeaf c) = 0 := by
    rw [List.countP_eq_zero]
    intro j hj
    obtain ⟨h1, h2⟩ := List.mem_range'_1.mp hj
    rw [holdsLeaf, h.others _ (by rw [slot_toNat (by omega)]; exact h1)]
    decide
  have hsplit : List.range 511 = List.range' 0 t.slots ++ List.range' t.slots (511 - t.slots) := by
    rw [List.range_eq_range']
    have := List.range'_append_1 (s := 0) (m := t.slots) (n := 511 - t.slots)
    rw [Nat.zero_add, show t.slots + (511 - t.slots) = 511 by omega] at this
    exact this.symm
  rw [leafSlots_length_eq, hsplit, List.countP_append, hrest, h.hung.countP_leaves, Nat.add_zero]

end Fills

end Sys2Proof.Machine

/-! ## Every body keeps the rules of the core state and has a next state (R25 to R32, R78) -/

namespace Sys2Proof.Machine

/-! ### What the rules of the core state speak of -/

/-- Two core states with one arena and one code table. -/
structure SameTree (c d : Core) : Prop where
  node : d.node = c.node
  root : d.root = c.root
  nleaf : d.nleaf = c.nleaf
  treeV : d.treeV = c.treeV
  treeSrc : d.treeSrc = c.treeSrc
  codeLen : d.codeLen = c.codeLen
  codeBits : d.codeBits = c.codeBits
  codesV : d.codesV = c.codesV

theorem leafSlots_of_node_eq {c d : Core} (h : d.node = c.node) : leafSlots d = leafSlots c := by
  simp only [leafSlots, h]

theorem validSlots_of_node_eq {c d : Core} (h : d.node = c.node) : validSlots d = validSlots c := by
  simp only [validSlots, h]

theorem tree_of_node_eq {c d : Core} (hn : d.node = c.node) (hr : d.root = c.root) : d.tree = c.tree := by
  unfold Core.tree
  rw [treeAt_of_node_eq hn, hr]

theorem linked_of_node_eq {c d : Core} (hn : d.node = c.node) (hr : d.root = c.root) (i : Slot) :
    linked d i = linked c i := by
  simp only [linked, nodeAt_of_node_eq hn, hr]

/-- The rules of the arena speak of the slots and their descriptors alone. -/
theorem TreeOk.of_eq {c d : Core} (h : TreeOk c) (hn : d.node = c.node) (hr : d.root = c.root)
    (hl : d.nleaf = c.nleaf) (hv : d.treeV = c.treeV) (hs : d.treeSrc = c.treeSrc) : TreeOk d := by
  intro htv
  obtain ⟨hroot, hvalid, hlinked, htree, hclimb, hcount, hsym⟩ := h (hv ▸ htv)
  rw [Core.leafCount, hl, hr, hs, nodeAt_of_node_eq hn, validSlots_of_node_eq hn, leafSlots_of_node_eq hn,
    tree_of_node_eq hn hr, funext (linked_of_node_eq hn hr), funext (climb_of_node_eq hn Config.maxLevels),
    funext (nodeAt_of_node_eq hn)]
  exact ⟨hroot, hvalid, hlinked, htree, hclimb, hcount, hsym⟩

theorem codeOf_of_table_eq {c d : Core} (hl : d.codeLen = c.codeLen) (hb : d.codeBits = c.codeBits) (b : Byte) :
    d.codeOf b = c.codeOf b := by
  simp only [Core.codeOf, Core.codeLenOf, Core.codeBitsOf, hl, hb]

/-- With `CODES_V` 0 the rules of the code table are those of its bits (R28). -/
theorem codesOk_of_no_codes {c d : Core} (h : CodesOk c) (hl : d.codeLen = c.codeLen) (hb : d.codeBits = c.codeBits)
    (hv : d.codesV = false) : CodesOk d := by
  obtain ⟨hbits, -⟩ := h
  refine ⟨?_, fun k => by rw [hv] at k; cases k⟩
  unfold Core.codeBitsOf Core.codeLenOf at hbits ⊢
  rwa [hl, hb]

theorem CodesOk.of_same {c d : Core} (h : CodesOk c) (k : SameTree c d) : CodesOk d := by
  obtain ⟨hbits, htable⟩ := h
  constructor
  · unfold Core.codeBitsOf Core.codeLenOf at hbits ⊢
    rwa [k.codeLen, k.codeBits]
  · intro hv
    rw [k.treeV, k.treeSrc, tree_of_node_eq k.node k.root]
    simp only [codesFrom, codeOf_of_table_eq k.codeLen k.codeBits]
    exact htable (k.codesV ▸ hv)

/-- With the arena and the code table as they were, what is left to say is of the writer and the reader. -/
theorem CoreInv.of_same {c d : Core} (h : CoreInv c) (k : SameTree c d) (hw : WriterOk d) (hr : ReaderOk d) :
    CoreInv d := by
  obtain ⟨-, -, hslots, htree, hcodes⟩ := h
  exact ⟨hw, hr, by unfold SlotsOk; rwa [k.node], htree.of_eq k.node k.root k.nleaf k.treeV k.treeSrc, hcodes.of_same k⟩

/-- The writer moved, with the bits past those buffered still 0. -/
theorem CoreInv.of_writer {w v : Work} (h : CoreInv w.core) (m : WriterMoves w v) (hw : WriterOk v.core) :
    CoreInv v.core := by
  refine h.of_same ?_ hw ?_ <;> rw [m.core]
  · exact ⟨rfl, rfl, rfl, rfl, rfl, rfl, rfl, rfl⟩
  · exact h.2.1

/-- The reader moved, and is within the valid bits still. -/
theorem CoreInv.of_reader {w v : Work} (h : CoreInv w.core) (m : ReaderMoves w v) (hr : ReaderOk v.core) :
    CoreInv v.core := by
  refine h.of_same ?_ ?_ hr <;> rw [m.core]
  · exact ⟨rfl, rfl, rfl, rfl, rfl, rfl, rfl, rfl⟩
  · exact h.1

theorem coreInv_closeReader {w : Work} (h : CoreInv w.core) : CoreInv (closeReader w).core :=
  h.of_same ⟨rfl, rfl, rfl, rfl, rfl, rfl, rfl, rfl⟩ h.1 ⟨rfl, rfl, rfl, rfl, rfl⟩

theorem CoreInv.setResult {c : Core} (h : CoreInv c) (v : Word) : CoreInv (c.setResult v) :=
  h.of_same ⟨rfl, rfl, rfl, rfl, rfl, rfl, rfl, rfl⟩ h.1 h.2.1

/-- The counts and `ARG` are under no rule. -/
theorem CoreInv.setCounts {c : Core} (h : CoreInv c) (a : Word) (f : Vector Word 256) :
    CoreInv { c with arg := a, freq := f } :=
  h.of_same ⟨rfl, rfl, rfl, rfl, rfl, rfl, rfl, rfl⟩ h.1 h.2.1

theorem CoreInv.readerOpen {w : Work} (h : CoreInv w.core) (ho : w.core.hdrOk = true) : ReaderOpen w := ⟨ho, h.2.1⟩

theorem CoreInv.exists_tree {c : Core} (h : CoreInv c) (hv : c.treeV = true) : ∃ tr, c.tree = some tr := by
  obtain ⟨-, -, -, hok, -⟩ := h
  obtain ⟨-, -, -, htree, -⟩ := hok hv
  exact Option.isSome_iff_exists.mp htree

/-! ### The writer's bodies -/

theorem pushBit_keeps_writerOk {b : Bool} {w v : Work} (h : pushBit b w = .ok () v) (hw : WriterOk w.core) :
    WriterOk v.core := by
  by_cases h7 : w.core.wbCnt = 7
  · simp only [pushBit, if_pos h7] at h
    obtain ⟨⟨⟩, u, -, h⟩ := Res.bind_eq_ok.mp h
    cases h
    exact writerOk_empty u.core
  · obtain ⟨u, hu, hp, -⟩ := pushBit_short_pushed b h7
    obtain rfl : v = u := by
      rw [hu] at h
      cases h
      rfl
    exact hp.clear hw

theorem pushBits_keeps_writerOk {bs : List Bool} {w v : Work} (h : pushBits bs w = .ok () v) (hw : WriterOk w.core) :
    WriterOk v.core := by
  induction bs generalizing w with
  | nil => cases h; exact hw
  | cons b bs ih =>
    obtain ⟨⟨⟩, u, hu, h⟩ := Res.bind_eq_ok.mp h
    exact ih h (pushBit_keeps_writerOk hu hw)

theorem pushBits_safe (bs : List Bool) {w : Work} (h : CoreInv w.core) :
    (pushBits bs w).Safe fun _ v => CoreInv v.core :=
  (pushBits_post bs w).safe fun _ _ hv m => h.of_writer m (pushBits_keeps_writerOk hv h.1)

theorem encodeSym_safe (b : Byte) {w : Work} (h : CoreInv w.core) :
    (encodeSym b w).Safe fun _ v => CoreInv v.core := by
  unfold encodeSym
  split
  · trivial
  · exact pushBits_safe _ h

theorem emitAll_core {bs : List Byte} {w v : Work} (h : emitAll bs w = .ok () v) : v.core = w.core := by
  induction bs generalizing w with
  | nil => cases h; rfl
  | cons b bs ih =>
    obtain ⟨⟨⟩, u, hu, h⟩ := Res.bind_eq_ok.mp h
    exact (ih h).trans (emit_core hu)

theorem wrMagic_safe (m : Vector Byte 4) {w : Work} (h : CoreInv w.core) :
    (wrMagic m w).Safe fun _ v => CoreInv v.core :=
  (emitAll_post _ w).safe fun _ v hv _ => by rw [emitAll_core hv]; exact h

theorem serTree_safe {w : Work} (h : CoreInv w.core) (hv : w.core.treeV = true) :
    (serTree w).Safe fun _ v => CoreInv v.core := by
  obtain ⟨tr, ht⟩ := h.exists_tree hv
  rw [serTree, ser_eq_pushBits ht]
  exact pushBits_safe _ h

theorem flushPartial_safe {w : Work} (h : CoreInv w.core) : (flushPartial w).Safe fun _ v => CoreInv v.core := by
  unfold flushPartial
  split
  · exact h
  · refine ((emit_post w.core.wbAcc w).safe fun _ _ hv _ => emit_core hv).bind fun _ v _ hv => ?_
    exact CoreInv.of_writer (w := v) (by rw [hv]; exact h) (emptyWriter_moves v) (writerOk_empty v.core)

theorem finish_safe {w : Work} (h : CoreInv w.core) : (finish w).Safe fun _ v => CoreInv v.core := by
  refine (flushPartial_safe h).bind fun _ u _ hu => ?_
  refine ((emit_post (footerOf w.core.wbCnt) u).safe fun _ _ hv _ => emit_core hv).bind fun _ v _ hv => ?_
  exact (flushOut_post v).safe fun _ x hx _ => by rw [flushOut_core hx, hv]; exact hu

/-! ### The loops over the input -/

/-- A loop over the input ends within its bound and keeps what every pass keeps, when no pass moves in the input by
itself (R78). -/
theorem forBytes_safe {body : Byte → Work → Res Unit} {wr : Bool} {es : List ErrKind} {I : Core → Prop}
    (heff : ∀ b w, (body b w).Effects false wr es w)
    (hb : ∀ b w, I w.core → (body b w).Safe fun _ v => I v.core) {k : Nat} {w : Work} (hw : I w.core)
    (hk : w.ports.bytesLeft < k) : (forBytes body k w).Safe fun _ v => I v.core := by
  induction k generalizing w with
  | zero => omega
  | succ k ih =>
    rcases readByte_cases w.ports with ⟨hl, -⟩ | ⟨hl, -⟩
    · rw [forBytes_byte (List.getElem?_eq_getElem hl)]
      refine (hb _ (w.skip 1) hw).bind fun _ v hv hi => ?_
      have hmove := (heff w.ports.inData[w.ports.inPos] (w.skip 1)).of_ok hv
      refine ih hi ?_
      rw [Ports.bytesLeft, hmove.input, hmove.still rfl, Work.skip_ports]
      unfold Ports.bytesLeft at hk
      dsimp only
      omega
    · rw [forBytes_eos hl]
      exact hw

theorem countByte_safe (b : Byte) (w : Work) (h : CoreInv w.core) :
    (countByte b w).Safe fun _ v => CoreInv v.core := by
  rcases countByte_cases b w with ⟨-, k⟩ | ⟨-, k⟩ <;> rw [k]
  · trivial
  · exact h.setCounts _ _

theorem freqCount_safe {w : Work} (h : CoreInv w.core) : (freqCount w).Safe fun _ v => CoreInv v.core :=
  forBytes_safe countByte_effects countByte_safe (coreInv_closeReader h) (Nat.lt_succ_self _)

theorem encStream_safe {w : Work} (h : CoreInv w.core) : (encStream w).Safe fun _ v => CoreInv v.core :=
  forBytes_safe (w := rewind (closeReader w)) encodeSym_effects (fun b _ => encodeSym_safe b) (coreInv_closeReader h)
    (Nat.lt_succ_self _)

/-! ### The reader's bodies -/

theorem prime_safe (w : Work) : (prime w).Safe fun _ v => ReaderOk (openReader v).core := by
  refine ((readOr_post _ w).safe fun _ _ _ => id).bind fun cur u _ _ => ?_
  refine ((readOr_post _ u).safe fun _ _ _ => id).bind fun la0 v _ _ => ?_
  rcases loadWindow_cases cur la0 v with ⟨x, hx, -⟩ | ⟨x, hx, hz, -, hf, -⟩ <;> rw [hx]
  · trivial
  · exact readerOk_of_start (c := (openReader x).core) rfl hz hf

theorem rdMagic_readerOk (m : Vector Byte 4) (w : Work) : (rdMagic m w).Safe fun _ v => ReaderOk v.core := by
  refine ((readHeader_post 4 (closeReader w)).safe fun _ _ _ => id).bind fun got u _ _ => ?_
  split
  · exact (prime_safe u).bind fun _ v _ hv => hv
  · trivial

theorem rdMagic_safe (m : Vector Byte 4) {w : Work} (h : CoreInv w.core) :
    (rdMagic m w).Safe fun _ v => CoreInv v.core := by
  refine (rdMagic_readerOk m w).safe fun _ v hv hr => ?_
  have hframe : v.core = _ := rdMagic_frame hv
  refine h.of_same ?_ ?_ hr <;> rw [hframe]
  · exact ⟨rfl, rfl, rfl, rfl, rfl, rfl, rfl, rfl⟩
  · exact h.1

theorem pullBits_safe (n : Byte) {w : Work} (h : CoreInv w.core) (ho : w.core.hdrOk = true) :
    (pullBits n w).Safe fun _ v => CoreInv v.core := by
  refine ((h.readerOpen ho).readBits_safe n.toNat 0).bind fun x v hv hopen => ?_
  exact (h.of_reader ((readBits_post _ _ w).of_ok hv) hopen.cursor).setResult x

theorem decSym_safe {w : Work} (h : CoreInv w.core) (ho : w.core.hdrOk = true) (hv : w.core.treeV = true) :
    (decSym w).Safe fun _ v => CoreInv v.core := by
  obtain ⟨tr, ht⟩ := h.exists_tree hv
  unfold decSym
  split
  · exact h.setResult _
  · refine ((h.readerOpen ho).decodeOne_safe ht).bind fun b v hv ⟨hopen, _⟩ => ?_
    exact (h.of_reader ((decodeOne_post w).of_ok hv) hopen.cursor).setResult _

theorem decStream_safe {w : Work} (h : CoreInv w.core) (ho : w.core.hdrOk = true) (hv : w.core.treeV = true) :
    (decStream w).Safe fun _ v => CoreInv v.core := by
  obtain ⟨tr, ht⟩ := h.exists_tree hv
  have hall := (h.readerOpen ho).decodeAll_safe ht (bitsLeft_length_lt w)
  have hrun : (decStream w).Safe fun _ v => ReaderOk v.core := by
    refine hall.bind fun _ u _ hu => ?_
    exact (flushOut_post u).safe fun _ v hv _ => by rw [flushOut_core hv]; exact hu.cursor
  refine hrun.safe fun _ v hv hr => ?_
  have hframe : v.core = _ := decStream_frame hv
  refine h.of_same ?_ ?_ hr <;> rw [hframe]
  · exact ⟨rfl, rfl, rfl, rfl, rfl, rfl, rfl, rfl⟩
  · exact h.1

/-! ### The tables -/

theorem nodeAt_eq_getElem (c : Core) {i : Nat} (hi : i < 511) : c.nodeAt (BitVec.ofNat 9 i) = c.node[i] := by
  rw [Core.nodeAt, slot_toNat (by omega), Vector.getElem?_eq_getElem hi]
  rfl

theorem slotsOk_of_empty {c : Core} (h : ∀ i : Slot, (c.nodeAt i).valid = false → c.nodeAt i = Node.empty) :
    SlotsOk c := by
  simp only [SlotsOk, List.all_eq_true, Vector.mem_toList_iff, Vector.mem_iff_getElem]
  rintro n ⟨i, hi, rfl⟩
  cases hv : c.node[i].valid with
  | true => rfl
  | false =>
    have he := h (BitVec.ofNat 9 i)
    rw [nodeAt_eq_getElem c hi] at he
    rw [he hv]
    decide

theorem freqClear_safe {w : Work} (h : CoreInv w.core) : (freqClear w).Safe fun _ v => CoreInv v.core :=
  h.setCounts _ _

/-- The rules of the arena, as they hold of a built tree. -/
theorem BuiltArena.treeOk {c : Core} {tr : Tree} (h : BuiltArena c tr) : TreeOk c := by
  intro _
  simp only [List.all_eq_true, mem_validSlots, Option.isSome_iff_exists, beq_iff_eq]
  exact ⟨ne_null_of_valid h.rootValid, h.rootValid, h.linked, ⟨tr, h.tree⟩, h.climbs, h.count, fun _ => h.atSymbol⟩

theorem buildTree_safe {w : Work} (h : CoreInv w.core) : (buildTree w).Safe fun _ v => CoreInv v.core := by
  by_cases hp : present w.core = []
  · simp only [buildTree, hp, if_true]
    trivial
  obtain ⟨v, tr, hv, -, -, harena, -⟩ := buildTree_builtArena hp
  obtain ⟨v', hv', -, hforest⟩ := buildTree_forest hp
  obtain rfl : v = v' := by
    rw [hv] at hv'
    cases hv'
    rfl
  have hframe : v.core = _ := buildTree_frame hv
  obtain ⟨hw, hr, -, -, hcodes⟩ := h
  rw [hv]
  refine ⟨?_, ?_, slotsOk_of_empty hforest.grove.empty, harena.treeOk, codesOk_of_no_codes hcodes ?_ ?_ ?_⟩ <;>
    rw [hframe]
  · exact hw
  · exact hr

/-- An entry with its code left-aligned has no bit past it (R28). -/
theorem HasCode.bits_mod {c : Core} {b : Byte} {code : List Bool} (h : HasCode c b code) :
    (c.codeBitsOf b).toNat % 2 ^ (256 - (c.codeLenOf b).toNat) = 0 := by
  refine Nat.eq_of_testBit_eq fun k => ?_
  rw [Nat.testBit_mod_two_pow, Nat.zero_testBit]
  by_cases hk : k < 256 - (c.codeLenOf b).toNat
  · have := h.getLsbD_past (k := 255 - k) (by omega) (by omega)
    rw [show 255 - (255 - k) = k by omega] at this
    simpa [BitVec.getLsbD] using fun _ => this
  · simp [hk]

theorem genCodes_safe {w : Work} (h : CoreInv w.core) (hv : w.core.treeV = true) (hs : w.core.treeSrc = false) :
    (genCodes w).Safe fun _ v => CoreInv v.core := by
  obtain ⟨tr, harena⟩ := exists_builtArena h hv hs
  obtain ⟨v, hok, -, hcodes⟩ := genCodes_enters harena
  have hframe : v.core = _ := genCodes_frame hok
  have hnode : v.core.node = w.core.node := by rw [hframe]
  have hroot : v.core.root = w.core.root := by rw [hframe]
  have htree : v.core.tree = some tr := (tree_of_node_eq hnode hroot).trans harena.tree
  rw [hok]
  refine ⟨?_, ?_, ?_, ?_, List.all_eq_true.mpr fun b _ => beq_iff_eq.mpr (hcodes b).bits_mod, fun _ => ⟨?_, ?_, ?_⟩⟩
  · rw [hframe]; exact h.1
  · rw [hframe]; exact h.2.1
  · rw [hframe]; exact h.2.2.1
  · exact h.2.2.2.1.of_eq hnode hroot (by rw [hframe]) (by rw [hframe]) (by rw [hframe])
  · rw [hframe]; exact hv
  · rw [hframe]; exact hs
  · rw [htree]
    exact List.all_eq_true.mpr fun b _ => beq_iff_eq.mpr (hcodes b).codeOf_eq

/-- The rules of the arena, as they hold of a tree that the deserializer has read. -/
theorem Fills.treeOk {c : Core} {tr : Tree} (h : Fills c tr) (hn : c.nleaf = BitVec.ofNat 9 tr.leaves)
    (hs : c.treeSrc = true) : TreeOk c := by
  intro _
  have hroot : c.nodeAt c.root = c.nodeAt (BitVec.ofNat 9 0) := congrArg c.nodeAt h.root
  have hleaves := tr.leaves_eq
  have hsmall := h.small
  simp only [List.all_eq_true, mem_validSlots, mem_leafSlots]
  refine ⟨by rw [h.root]; decide, by rw [hroot]; exact h.hung.root.1, fun i hi => h.linked hi, ?_,
    fun i hi => h.climb hi.1, ?_, fun k => by rw [hs] at k; cases k⟩
  · rw [h.tree]
    rfl
  · rw [hn, slot_toNat (by omega)]
    exact h.leafSlots_length.symm

/-- `DESER_TREE` fills the arena with a tree, from slot 0 on (R118, R119). -/
theorem ReaderOpen.deserTree_fills {w : Work} (h : ReaderOpen w) :
    (deserTree w).Safe fun _ v => ReaderOpen v ∧ v.core.treeSrc = true ∧
      ∃ tr, Fills v.core tr ∧ v.core.nleaf = BitVec.ofNat 9 tr.leaves := by
  rw [deserTree_eq]
  have hopen : ReaderOpen (deserStart w) := ⟨h.isOpen, h.cursor⟩
  have hrun := hopen.deser_safe (d := 256) (parent := Config.nullSlot) (side := false)
    (t := { nextSlot := 0, nint := 0, nleaf := 0 }) (by simp only; omega) (by simp only; omega) (by simp only; omega)
  refine hrun.bind ?_
  rintro _ v - ⟨tr, hr, hsmall, rfl, hgrown⟩
  simp only [Nat.zero_add] at hsmall
  refine ⟨⟨hr.isOpen, hr.cursor⟩, rfl, tr, ?_, by simp⟩
  have hnode (j : Slot) : Core.nodeAt _ j = v.core.nodeAt j := nodeAt_of_node_eq rfl j
  have hslots : tr.slots ≤ 511 := by
    have := tr.leaves_eq
    unfold Tree.slots
    omega
  refine ⟨hsmall, hgrown.hung.congr (by omega) fun j _ _ => hnode j, fun j hj => ?_, rfl⟩
  refine (hnode j).trans ((hgrown.others j (.inr (by simpa using hj))).trans ?_)
  exact nodeAt_clearNodes _ j

theorem deserTree_safe {w : Work} (h : CoreInv w.core) (ho : w.core.hdrOk = true) :
    (deserTree w).Safe fun _ v => CoreInv v.core := by
  refine (h.readerOpen ho).deserTree_fills.safe fun _ v hv ⟨hopen, hsrc, tr, hfills, hleaves⟩ => ?_
  have hframe : v.core = _ := deserTree_frame hv
  obtain ⟨hw, -, -, -, hcodes⟩ := h
  refine ⟨by rw [hframe]; exact hw, hopen.cursor, slotsOk_of_empty fun _ => hfills.empty, hfills.treeOk hleaves hsrc,
    codesOk_of_no_codes hcodes (by rw [hframe]) (by rw [hframe]) (by rw [hframe])⟩

/-! ### The composite commands -/

theorem compress_safe (m : Vector Byte 4) {w : Work} (h : CoreInv w.core) :
    (compress m w).Safe fun _ v => CoreInv v.core := by
  refine (freqClear_safe (w := rewind w) h).bind fun _ u _ hu => ?_
  refine (freqCount_safe hu).bind fun _ u _ hu => ?_
  refine (buildTree_safe hu).bind fun _ v hv hi => ?_
  have hframe : v.core = _ := buildTree_frame hv
  refine (genCodes_safe hi (by rw [hframe]) (by rw [hframe])).bind fun _ u hu hi => ?_
  have hframe' : u.core = _ := genCodes_frame hu
  refine (wrMagic_safe m hi).bind fun _ x hx hi => ?_
  have hv : x.core.treeV = true := by rw [emitAll_core hx, hframe', hframe]
  refine (serTree_safe hi hv).bind fun _ u _ hi => ?_
  refine (encStream_safe hi).bind fun _ u _ hi => ?_
  exact finish_safe hi

theorem decompress_safe (m : Vector Byte 4) {w : Work} (h : CoreInv w.core) :
    (decompress m w).Safe fun _ v => CoreInv v.core := by
  refine (rdMagic_safe m h).bind fun _ u hu hi => ?_
  have hframe : u.core = _ := rdMagic_frame hu
  have ho : u.core.hdrOk = true := by rw [hframe]
  refine (deserTree_safe hi ho).bind fun _ v hv hi => ?_
  have hframe' : v.core = _ := deserTree_frame hv
  exact decStream_safe hi (by rw [hframe']; exact ho) (by rw [hframe'])

end Sys2Proof.Machine

/-! ## The invariant of the machine, and that no step stops (R35, R78) -/

namespace Sys2Proof.Machine

/-! ### Commands -/

theorem checked_safe {rd wr prereq : Bool} {body : Work → Res Unit} {s : State}
    (hb : prereq = true → (body s.work).Safe fun _ v => CoreInv v.core) :
    ∃ t, checked rd wr prereq body s = .next t ∧ (t.err = false → CoreInv t.core) := by
  rcases checked_cases rd wr prereq body s with ⟨-, k⟩ | ⟨-, -, -, k⟩ | ⟨-, -, hp, k⟩
  · exact ⟨_, k, fun he => by cases he⟩
  · exact ⟨_, k, fun he => by cases he⟩
  · have hsafe := hb hp
    rw [k]
    cases hr : body s.work with
    | ok a v => rw [hr] at hsafe; exact ⟨_, rfl, fun _ => hsafe⟩
    | raised e v => exact ⟨_, rfl, fun he => by cases he⟩
    | stuck f => rw [hr] at hsafe; exact hsafe.elim

theorem checkedCount_safe {rd wr prereq : Bool} {body : Work → Res Unit} {n : Byte} {s : State}
    (hb : prereq = true → (body s.work).Safe fun _ v => CoreInv v.core) :
    ∃ t, checkedCount n (checked rd wr prereq body) s = .next t ∧ (t.err = false → CoreInv t.core) := by
  cases hn : countLegal n with
  | true =>
    rw [checkedCount_legal hn]
    exact checked_safe hb
  | false => exact ⟨_, checkedCount_illegal hn, fun he => by cases he⟩

/-- The reset value of the core state meets its rules: nothing is buffered, open, built or coded (R35). -/
theorem coreInv_zero : CoreInv Core.zero := by
  refine ⟨by decide, by decide, slotsOk_of_empty fun i _ => ?_, fun h => (by cases h), ?_, fun h => (by cases h)⟩
  · exact nodeAt_clearNodes Core.zero i
  · refine List.all_eq_true.mpr fun b _ => ?_
    simp [Core.codeBitsOf, Core.zero]

/-- Where the rules of the core state hold every command has a next state, and outside the FAILED state it keeps them
(R78). -/
theorem exec_safe (i : Instr) {s : State} (h : CoreInv s.core) :
    ∃ t, exec i s = .next t ∧ (t.err = false → CoreInv t.core) := by
  cases i with
  | nop => exact ⟨_, rfl, fun _ => h⟩
  | softReset => exact ⟨_, rfl, fun _ => coreInv_zero⟩
  | freqClear =>
    exact checked_safe (rd := false) (wr := false) (prereq := true) (body := freqClear) fun _ => freqClear_safe h
  | freqCount => exact checked_safe (body := freqCount) fun _ => freqCount_safe h
  | buildTree =>
    exact checked_safe (rd := false) (wr := false) (prereq := true) (body := buildTree) fun _ => buildTree_safe h
  | genCodes =>
    refine checked_safe (rd := false) (wr := false) (prereq := s.core.builtTree) (body := genCodes) fun hp => ?_
    simp only [Core.builtTree, Bool.and_eq_true, Bool.not_eq_true'] at hp
    exact genCodes_safe h hp.1 hp.2
  | wrMagic => exact checked_safe fun _ => wrMagic_safe _ h
  | pushBits n => exact checkedCount_safe fun _ => pushBits_safe _ h
  | serTree => exact checked_safe fun hp => serTree_safe h hp
  | encSym b => exact checked_safe fun _ => encodeSym_safe b h
  | encStream => exact checked_safe fun _ => encStream_safe h
  | flushPartial => exact checked_safe fun _ => flushPartial_safe h
  | finish => exact checked_safe fun _ => finish_safe h
  | rdMagic => exact checked_safe fun _ => rdMagic_safe _ h
  | pullBits n => exact checkedCount_safe fun hp => pullBits_safe n h hp
  | deserTree => exact checked_safe fun hp => deserTree_safe h hp
  | decSym =>
    refine checked_safe fun hp => ?_
    simp only [Core.canDecode, Bool.and_eq_true] at hp
    exact decSym_safe h hp.1 hp.2
  | decStream =>
    refine checked_safe fun hp => ?_
    simp only [Core.canDecode, Bool.and_eq_true] at hp
    exact decStream_safe h hp.1 hp.2
  | compress => exact checked_safe fun _ => compress_safe _ h
  | decompress => exact checked_safe fun _ => decompress_safe _ h

/-! ### The invariant, step by step -/

theorem ErrKind.code_mem_produced {e : ErrKind} (h : e.code ≠ 2) : e.code ∈ producedCodes := by
  cases e with
  | outOfMemory => exact absurd rfl h
  | _ => decide

/-- With no command in flight the flags are in order when nothing is pending and `ERRCODE` goes with `ERR`. -/
theorem statusOk_idle {s : State} (hb : s.busy = false) (hp : s.pending = 0) (h0 : s.err = false → s.errcode = 0)
    (h1 : s.err = true → s.errcode ∈ producedCodes) : StatusOk s :=
  ⟨fun _ => hp, fun k => absurd (hb.symm.trans k) (by decide), fun k => absurd (hb.symm.trans k) (by decide), h0, h1⟩

theorem inv_raise {i : Instr} {s : State} {e : ErrKind} {v : Work} (he : i.opc ∈ raisers e)
    (hin : v.ports.inPos ≤ v.ports.inData.length) : Inv (raise e (s.setWork v)) :=
  ⟨statusOk_idle rfl rfl (fun k => by cases k) fun _ => ErrKind.code_mem_produced (raisers_outOfMemory_empty he), hin,
    fun k => by cases k⟩

/-- The invariant through a command run outside the FAILED state. -/
theorem Ending.inv {i : Instr} {s t : State} (h : Ending i s t) (hs : Inv s) (he : s.err = false)
    (hcore : t.err = false → CoreInv t.core) : Inv t := by
  obtain ⟨⟨-, -, -, hcode, -⟩, hin, -⟩ := hs
  cases h with
  | completed v m =>
    exact ⟨statusOk_idle rfl rfl (fun _ => hcode he) fun k => absurd (he.symm.trans k) (by decide), m.inside hin, hcore⟩
  | failed e v hr m => exact inv_raise hr (m.inside hin)

theorem inv_reset {s : State} (hin : s.ports.inPos ≤ s.ports.inData.length) : Inv (hardReset s) :=
  ⟨statusOk_idle rfl rfl (fun _ => rfl) fun k => (by cases k), hin, fun _ => coreInv_zero⟩

theorem inv_coreStep {s t : State} (hs : Inv s) (hb : s.busy = true) (h : coreStep s = .next t) : Inv t := by
  obtain ⟨⟨-, -, hpending, hcode, hcodes⟩, hin, hcore⟩ := id hs
  have hsoft : Inv (complete { hardReset s with ie := s.ie, lastOpc := 0x01 }) :=
    ⟨statusOk_idle rfl rfl (fun _ => rfl) fun k => (by cases k), hin, fun _ => coreInv_zero⟩
  cases he : s.err with
  | true =>
    rcases coreStep_failed h (hpending hb he) with rfl | ⟨-, rfl⟩
    · exact ⟨statusOk_idle rfl rfl hcode hcodes, hin, hcore⟩
    · exact hsoft
  | false =>
    rcases coreStep_cases h with ⟨i, -, -, hexec, hend⟩ | ⟨-, rfl⟩ | rfl
    · obtain ⟨u, hu, hk⟩ := exec_safe i (hcore he)
      obtain rfl : t = u := by
        rw [hu] at hexec
        cases hexec
        rfl
      exact hend.inv hs he hk
    · exact hsoft
    · exact inv_raise (i := .nop) (s := s) (v := s.work) (by decide) hin

theorem inv_accept {s : State} {w : Word} (hs : Inv s)
    (hw : s.err = false ∨ w = 0x00000000 ∨ w = 0x00000001) : Inv (accept w s) := by
  obtain ⟨⟨-, -, -, hcode, hcodes⟩, hin, hcore⟩ := hs
  refine ⟨⟨fun k => (by cases k), fun _ => ⟨rfl, rfl⟩, fun _ he => hw.resolve_left ?_, hcode, hcodes⟩, hin, hcore⟩
  rw [show s.err = true from he]
  decide

theorem inv_writeReg {s : State} (hs : Inv s) (r : Reg) (v : Word) : Inv (writeReg r v s) := by
  obtain ⟨⟨h1, h2, h3, h4, h5⟩, hin, hcore⟩ := id hs
  rcases writeReg_cases r v s with ⟨-, h⟩ | ⟨-, h⟩ | ⟨-, h⟩ | ⟨-, -, h⟩ | ⟨_, -, -, h⟩ | h <;> rw [h]
  · exact hs
  · refine ⟨⟨h1, fun hb => ⟨?_, (h2 hb).2⟩, h3, h4, h5⟩, hin, hcore⟩
    rw [writeStatus_done, (h2 hb).1, Bool.false_and]
  · rcases issue_cases v s with ⟨-, hw, k⟩ | ⟨-, k⟩ <;> rw [k]
    · exact inv_accept hs hw
    · exact hs
  · exact ⟨⟨h1, h2, h3, h4, h5⟩, hin, fun he => (hcore he).setCounts v s.core.freq⟩
  · exact ⟨⟨h1, h2, h3, h4, h5⟩, hin, fun he => (hcore he).setCounts s.core.arg _⟩
  · exact hs

theorem inv_regWrite {s : State} (hs : Inv s) (off : Offset) (n : Nat) (v : Word) : Inv (regWrite off n v s) := by
  unfold regWrite
  split
  · split
    · exact inv_writeReg hs _ v
    · exact hs
  · exact hs

/-- Settles O17: the core's step keeps the rules by the safety of every body, a host write takes nothing else than what
`STATUS`, `CTRL`, `CMD`, `ARG` and `FREQ` allow, and a reset leaves the reset values. -/
theorem stepKeepsInvariant : Obligations.StepKeepsInvariant := by
  unfold Obligations.StepKeepsInvariant
  intro s t hs h
  have htick : Inv s.tick := hs
  rcases step_cases h with ⟨hb, h⟩ | ⟨-, rfl⟩ | ⟨off, n, rfl⟩ | ⟨off, n, v, rfl⟩ | ⟨-, rfl⟩
  · exact inv_coreStep htick hb h
  · exact htick
  · rcases regRead_state off n s.tick with k | k <;> rw [k] <;> exact htick
  · exact inv_regWrite htick off n v
  · exact inv_reset htick.2.1

/-- Settles O18: the first state of a launch holds the reset values. -/
theorem launchMeetsInvariant : Obligations.LaunchMeetsInvariant := by
  unfold Obligations.LaunchMeetsInvariant
  exact fun l x p a => inv_reset (s := State.launched l x p a) (Nat.zero_le _)

/-! ### Progress (R78) -/

theorem coreStep_progress {s : State} (hs : Inv s) (hb : s.busy = true) : ∃ t, coreStep s = .next t := by
  obtain ⟨⟨-, -, hpending, -⟩, -, hcore⟩ := hs
  cases hd : decode s.pending with
  | malformed why => exact ⟨_, coreStep_malformed hd⟩
  | instr i =>
    rw [coreStep_instr hd]
    cases he : s.err with
    | false =>
      obtain ⟨t, ht, -⟩ := exec_safe i (hcore he)
      exact ⟨t, ht⟩
    | true =>
      rcases hpending hb he with hp | hp <;> rw [hp] at hd
      · obtain rfl : Instr.nop = i := by simpa using (show Decoded.instr .nop = _ from hd)
        exact ⟨_, rfl⟩
      · obtain rfl : Instr.softReset = i := by simpa using (show Decoded.instr .softReset = _ from hd)
        exact ⟨_, rfl⟩

/-- Settles O19: outside the FAILED state by the safety of every body; in it only `NOP` and `SOFT_RESET` run. -/
theorem stepNeverStops : Obligations.StepNeverStops := by
  unfold Obligations.StepNeverStops
  intro s hs
  unfold step
  split
  · split
    · exact coreStep_progress hs ‹_›
    · exact ⟨_, rfl⟩
  · split
    · exact coreStep_progress (s := { s with agenda := _ }) hs ‹_›
    · exact ⟨_, rfl⟩
  all_goals exact ⟨_, rfl⟩

end Sys2Proof.Machine

/-! ## The reader's commands on a stream (R104 to R113, R127, R128, R134) -/

namespace Sys2Proof.Machine

/-! ### `next_bit` (R108) -/

theorem ReaderMoves.frame {w v : Work} (h : ReaderMoves w v) : Frame .decStream w.core v.core := h.core

theorem rbEnd_of_more {c : Core} (hv : c.rbLa1V = true) : c.rbEnd = false := by
  simp [Core.rbEnd, Core.rbFinal, hv]

/-- Settles O50: `next_bit` by the bits left; with none left the final byte has been reached, so the footer was
checked. -/
theorem nextBitGivesValidBits : Obligations.NextBitGivesValidBits := by
  unfold Obligations.NextBitGivesValidBits
  refine ⟨fun w b rest ho hc hf hb => ?_, fun w ho hc hb => ?_, fun w ho hv hp hl hf => ?_⟩
  · obtain ⟨v, hv, hready, hrest⟩ := nextBit_gives ⟨ho, hc, hf⟩ hb
    have hmoves := (nextBit_post w).of_ok hv
    exact ⟨v, hv, hrest, hready.cursor, hready.footer, hmoves.frame, hmoves.ports⟩
  · have hopen : ReaderOpen w := ⟨ho, hc⟩
    cases hv : w.core.rbLa1V with
    | true => exact absurd hb (hopen.nextBit_more hv).1
    | false =>
      rcases nextBit_cases (hopen.ready_of_final hv) with ⟨-, hend⟩ | ⟨b, v, -, -, hbits⟩
      · exact hend
      · rw [hb] at hbits
        cases hbits
  · obtain ⟨v, hv', hports⟩ := loadWindow_bad_footer (cur := w.core.rbLa0) (w := w.setCore w.core.moveCursor)
      (Work.ahead_eq_nil.mpr hl) hf
    refine ⟨v, ?_, hports⟩
    rw [nextBit_advance (rbEnd_of_more hv) hp hv]
    change (loadWindow w.core.rbLa0 w.core.rbLa1 _).bind _ = _
    rw [hv', Res.bind_raised]

/-! ### `RD_MAGIC` on a stream whose footer may come later (R106, R113) -/

/-- Priming the reader takes two bytes and loads the window with them. -/
theorem prime_eq_loadWindow {w : Work} {cur la0 : Byte} {rest : List Byte} (h : w.ahead = cur :: la0 :: rest) :
    prime w = loadWindow cur la0 (w.skip 2) := by
  have hnext : (w.skip 1).ahead = la0 :: rest := by rw [Work.ahead_skip, h]; rfl
  rw [prime, readOr_byte h, Res.bind_ok, readOr_byte hnext, Res.bind_ok, Work.skip_skip]

/-- The reader primed: the whole stream is ahead of it, at its first bit, and at most three bytes have been taken. -/
structure Primed (d : List Byte) (w v : Work) : Prop where
  stream : streamFrom v = d
  start : v.core.rbPos = 0
  final : v.core.rbLa1V = true ∨ (footerCount v.core.rbLa0).isSome = true
  ports : v.ports = { w.ports with inPos := w.ports.inPos + min 3 d.length }

/-- A stream of three bytes, or of two with a legal footer, primes the reader (R106). -/
theorem prime_primed {w : Work} (h : 3 ≤ w.ahead.length ∨ (w.ahead.length = 2 ∧ GoodFooter w.ahead)) :
    ∃ v, prime w = .ok () v ∧ Primed w.ahead w v := by
  match ha : w.ahead, h with
  | [cur, la0], h =>
    have hlast : (w.skip 2).ahead = [] := by rw [Work.ahead_skip, ha]; rfl
    obtain ⟨n, hn⟩ : ∃ n, footerCount la0 = some n := Option.isSome_iff_exists.mp (by simpa [GoodFooter] using h)
    have hv := loadWindow_final (cur := cur) (Work.ahead_eq_nil.mp hlast) hn
    exact ⟨_, (prime_eq_loadWindow ha).trans hv, rfl, rfl, .inr (by simp [hn]), rfl⟩
  | cur :: la0 :: la1 :: rest, _ =>
    have hmore : (w.skip 2).ahead = la1 :: rest := by rw [Work.ahead_skip, ha]; rfl
    have hv := loadWindow_more (cur := cur) (la0 := la0) (Work.next_of_ahead hmore)
    have hrest : (w.skip 3).ahead = rest := by rw [Work.ahead_skip, ha]; rfl
    refine ⟨_, (prime_eq_loadWindow ha).trans hv, congrArg (cur :: la0 :: la1 :: ·) hrest, rfl, .inl rfl, ?_⟩
    simp [Nat.add_assoc]

/-- Settles O51: after the marker the reader is primed with the stream. -/
theorem rdMagicOpensReader : Obligations.RdMagicOpensReader := by
  unfold Obligations.RdMagicOpensReader
  intro s d hin hdata hd
  have hahead : s.work.ahead = s.launch.magic.toList ++ d := hdata
  have hrest : ((closeReader s.work).skip 4).ahead = d := by
    rw [Work.ahead_skip, Work.ahead_closeReader, hahead]
    exact List.drop_left' (by simp)
  obtain ⟨v, hv, hp⟩ := prime_primed (w := (closeReader s.work).skip 4) (by rwa [hrest])
  rw [hrest] at hp
  have hrd : rdMagic s.launch.magic s.work = .ok () (openReader v) := by rw [rdMagic_accepts hahead, hv, Res.bind_ok]
  have hexec : exec .rdMagic s = settle s (rdMagic s.launch.magic s.work) := checked_ready (fun _ => hin) (by simp) rfl
  have hstream : streamFrom (openReader v) = d := hp.stream
  have hstart : (openReader v).core.rbPos = 0 := hp.start
  refine ⟨complete (s.setWork (openReader v)), by rw [hexec, hrd]; rfl, rfl, rdMagic_frame hrd, ?_, rfl, hp.start,
    readerOk_of_start rfl hp.start hp.final, hstream, (bitsLeft_at_zero hstart).trans (congrArg validBits hstream)⟩
  change v.ports = _
  rw [hp.ports]
  change { s.ports with inPos := s.ports.inPos + 4 + min 3 d.length } = _
  rw [show s.ports.inPos + 4 + min 3 d.length = s.ports.inPos + min 7 (4 + d.length) by omega]

/-! ### `DEC_SYM` (R127, R128) -/

/-- Where bits are left `DEC_SYM` is `decode_one`, its byte the result. -/
theorem decSym_of_bitsLeft {w : Work} (h : ReaderReady w) (hb : bitsLeft w ≠ []) :
    decSym w = (decodeOne w).bind fun b v => .ok () (v.setCore (v.core.setResult (b.setWidth 32))) := by
  rw [decSym, if_neg (by simp [h.rbEnd_false hb])]

/-- Settles O55: `RB_END` is the end of the bits left, and `decode_one` takes the code they begin with. -/
theorem decSymTakesOneCode : Obligations.DecSymTakesOneCode := by
  unfold Obligations.DecSymTakesOneCode
  intro s tr hin ho hv ht hc hf
  have hready : ReaderReady s.work := ⟨ho, hc, hf⟩
  have hexec : exec .decSym s = settle s (decSym s.work) :=
    checked_ready (fun _ => hin) (by simp) (by rw [Core.canDecode, ho, hv]; rfl)
  rw [hexec]
  refine ⟨fun hb => ?_, fun b rest hd => ?_, fun hb hd => ?_⟩
  · rw [decSym, if_pos (hready.rbEnd_iff.mpr hb)]
    rfl
  · have hb : bitsLeft s.work ≠ [] := by
      intro hnil
      rw [hnil, Tree.decode_nil] at hd
      cases hd
    obtain ⟨v, hone, hready', hleft⟩ := decodeOne_gives hready ht hd
    have hsym : decSym s.work = .ok () (v.setCore (v.core.setResult (b.setWidth 32))) := by
      rw [decSym_of_bitsLeft hready hb, hone, Res.bind_ok]
    refine ⟨complete (s.setWork (v.setCore (v.core.setResult (b.setWidth 32)))), by rw [hsym]; rfl, rfl,
      decSym_frame hsym, ((decodeOne_post _).of_ok hone).ports, hready'.cursor, ?_, hleft⟩
    change (b.setWidth 32).toNat = b.toNat
    rw [BitVec.toNat_setWidth]
    exact Nat.mod_eq_of_lt (by omega)
  · obtain ⟨v, hone, -⟩ := decodeOne_corrupt hready ht hd
    exact ⟨raise .corruptData (s.setWork v), by rw [decSym_of_bitsLeft hready hb, hone, Res.bind_raised]; rfl, rfl⟩

/-! ### `DECOMPRESS` (R134) -/

/-- The tree of the arena is untouched by `DEC_STREAM`. -/
theorem decStream_tree {w v : Work} (h : decStream w = .ok () v) : v.core.tree = w.core.tree := by
  have hc : v.core = _ := decStream_frame h
  exact tree_of_node_eq (by rw [hc]) (by rw [hc])

/-- On a stream that begins with a tree's description `DECOMPRESS` goes on as `DEC_STREAM`, with that tree in the arena
and the bits after the description left. -/
theorem decompress_reaches_decStream {magic : Vector Byte 4} {w : Work} {d : List Byte} {tr : Tree} {tail : List Bool}
    (h : w.ahead = magic.toList ++ d) (h2 : 2 ≤ d.length) (hf : GoodFooter d) (hi : tr.internals ≤ 255)
    (hbits : validBits d = tr.bits ++ tail) :
    ∃ u, decompress magic w = decStream u ∧ ReaderReady u ∧ u.core.tree = some tr ∧ bitsLeft u = tail ∧
      InputOnly w.ports u.ports := by
  obtain ⟨x, hx, hready, hleft, hports⟩ := rdMagic_opens h h2 hf
  obtain ⟨u, hu, hports', hready', hleft', htree⟩ := deserTree_tree hready hi (hleft.trans hbits)
  refine ⟨u, by rw [decompress, hx, Res.bind_ok, hu, Res.bind_ok], hready', htree, hleft', ?_⟩
  rw [hports', hports]

/-- Settles O58: the header opens the reader on the stream, the description gives the tree, and the rest is
`DEC_STREAM`'s. -/
theorem decompressDecodesStream : Obligations.DecompressDecodesStream := by
  unfold Obligations.DecompressDecodesStream
  intro s d tr ps hi ho hdata h2 hf hint hps
  have hahead : s.work.ahead = s.launch.magic.toList ++ d := hdata
  rw [execDecompress_eq hi ho]
  refine ⟨fun hp hbits => ?_, fun tail k hfail hbits hk => ?_⟩
  · obtain ⟨u, hu, hready, htree, hleft, hports⟩ := decompress_reaches_decStream hahead h2 hf hint hbits
    obtain ⟨v, hv, hend, hout⟩ := decStream_writes hready htree hps hleft (by rw [hports]; exact hp)
    have hrun : decompress s.launch.magic s.work = .ok () v := hu.trans hv
    refine ⟨complete (s.setWork v), by rw [hrun]; rfl, rfl, decompress_frame hrun, ?_, ?_,
      (decStream_tree hv).trans htree, hend⟩
    · change InOutOnly s.work.ports v.ports
      rw [decStream_ports hv, hports]
    · change v.ports.outData = _
      rw [hout, hports]
      rfl
  · rw [List.append_assoc] at hbits
    obtain ⟨u, hu, hready, htree, hleft, hports⟩ := decompress_reaches_decStream hahead h2 hf hint hbits
    obtain ⟨v, hv⟩ := decStream_fails hready htree hps hleft (by rw [hports]; exact hfail) hk
    exact ⟨raise .writeFailure (s.setWork v), by rw [hu, hv]; rfl, rfl⟩

end Sys2Proof.Machine

/-! ## What a success of the writer has sent, whatever the sink's plan was (R53, R96, R97) -/

namespace Sys2Proof.Machine

/-! ### A byte and a bit (R52, R96, R97) -/

theorem nextAnswer_plan (p : Ports) : p.nextAnswer.2.sinkPlan = p.sinkPlan.tail := by
  unfold Ports.nextAnswer
  cases p.sinkPlan <;> rfl

theorem writeByte_plan (p : Ports) (b : Byte) : (p.writeByte b).2.sinkPlan = p.sinkPlan.tail := by
  rw [← nextAnswer_plan, Ports.writeByte]
  rcases p.nextAnswer with ⟨_ | kept, q⟩ <;> rfl

/-- A byte that was taken is the output's last, and the plan's next answer was used if it named one. -/
theorem emit_taken {b : Byte} {w v : Work} (h : emit b w = .ok () v) :
    v.core = w.core ∧ v.ports.outData = w.ports.outData ++ [b] ∧ v.ports.sinkPlan = w.ports.sinkPlan.drop 1 := by
  have hplan := writeByte_plan w.ports b
  rw [← List.drop_one] at hplan
  rcases writeByte_cases w.ports b with ⟨q, hq, -, hout⟩ | ⟨q, -, hq, -⟩ <;> rw [hq] at hplan <;>
    simp only [emit, hq] at h <;> cases h
  exact ⟨rfl, hout, hplan⟩

theorem pushBit_pushed_of_ok {b : Bool} {w v : Work} (h : pushBit b w = .ok () v) : Pushed [b] w v := by
  by_cases h7 : w.core.wbCnt = 7
  · have hbyte : byteBits (setBit w.core.wbAcc 0 b) = (byteBits w.core.wbAcc).take 7 ++ [b] :=
      take_byteBits_setBit w.core.wbAcc (k := 7) (by decide) b
    simp only [pushBit, if_pos h7] at h
    obtain ⟨⟨⟩, u, hu, h⟩ := Res.bind_eq_ok.mp h
    cases h
    obtain ⟨-, hout, hplan⟩ := emit_taken hu
    refine ⟨?_, fun _ => writerOk_empty _, ?_, by simp [emptyWriter, h7]⟩
    · simp [bitsSent, buffered, emptyWriter, hout, h7, hbyte]
    · simpa [emptyWriter, h7] using hplan
  · obtain ⟨u, hu, hp, -⟩ := pushBit_short_pushed b h7
    cases hu.symm.trans h
    exact hp

theorem pushBits_pushed_of_ok {bs : List Bool} {w v : Work} (h : pushBits bs w = .ok () v) : Pushed bs w v := by
  induction bs generalizing w with
  | nil => cases h; exact .nil _
  | cons b bs ih =>
    obtain ⟨⟨⟩, u, hu, h⟩ := Res.bind_eq_ok.mp h
    exact (pushBit_pushed_of_ok hu).append (ih h)

/-! ### Sequences whose successes have sent their bits -/

/-- r is the end of a sequence that sends the bits bs from w on, and only by sending them goes through. -/
structure SendsExactly (bs : List Bool) (w : Work) (r : Res Unit) : Prop extends Sends bs w r where
  sent : ∀ v, r = .ok () v → Sent bs w v

theorem SendsExactly.nil (w : Work) : SendsExactly [] w (.ok () w) :=
  ⟨.nil w, fun v hv => by cases hv; exact ⟨.nil w, rfl⟩⟩

theorem SendsExactly.bind {xs ys : List Bool} {w : Work} {r : Res Unit} {k : Unit → Work → Res Unit}
    (h : SendsExactly xs w r) (hk : ∀ v, r = .ok () v → SendsExactly ys v (k () v)) :
    SendsExactly (xs ++ ys) w (r.bind k) := by
  refine ⟨h.toSends.bind fun v hv => (hk v hv).toSends, fun v hv => ?_⟩
  obtain ⟨⟨⟩, u, hu, hv⟩ := Res.bind_eq_ok.mp hv
  have hs := h.sent u hu
  have hs' := (hk u hu).sent v hv
  exact ⟨hs.toPushed.append hs'.toPushed, by rw [hs'.ports, hs.ports]⟩

/-- Reading on, and the reader's own state, are nothing to what a sequence sends. -/
theorem SendsExactly.of_reader {bs : List Bool} {w : Work} {r : Res Unit} (c : Core) (n : Nat)
    (h : SendsExactly bs { core := c.setWb w.core.wbAcc w.core.wbCnt, ports := { w.ports with inPos := n } } r) :
    SendsExactly bs w r := by
  refine ⟨.of_reader c n h.toSends, fun v hv => ?_⟩
  have hs := h.sent v hv
  exact ⟨⟨hs.bits, hs.clear, hs.plan, hs.count⟩, hs.ports⟩

theorem pushBits_sendsExactly (bs : List Bool) (w : Work) : SendsExactly bs w (pushBits bs w) :=
  ⟨pushBits_sends bs w, fun _ hv => ⟨pushBits_pushed_of_ok hv, by rw [((pushBits_post _ _).of_ok hv).ports.only]⟩⟩

theorem emit_sendsExactly (b : Byte) {w : Work} (h0 : w.core.wbCnt = 0) : SendsExactly (byteBits b) w (emit b w) := by
  refine ⟨emit_sends b h0, fun v hv => ?_⟩
  obtain ⟨hcore, hout, hplan⟩ := emit_taken hv
  refine ⟨⟨?_, by rw [hcore]; exact id, ?_, ?_⟩, by rw [((emit_post _ _).of_ok hv).ports.only]⟩
  · simp [bitsSent, buffered, hcore, hout, h0]
  · simp [hplan, h0, byteBits_length]
  · simp [hcore, h0, byteBits_length]

theorem emitAll_sendsExactly (bs : List Byte) {w : Work} (h0 : w.core.wbCnt = 0) :
    SendsExactly (bs.flatMap byteBits) w (emitAll bs w) := by
  induction bs generalizing w with
  | nil => exact .nil w
  | cons b bs ih => exact (emit_sendsExactly b h0).bind fun v hv => ih (by rw [emit_core hv, h0])

theorem serTree_sendsExactly {w : Work} {t : Tree} (h : w.core.tree = some t) :
    SendsExactly t.bits w (serTree w) := by
  have hser : serTree w = pushBits t.bits w := ser_eq_pushBits h
  rw [hser]
  exact pushBits_sendsExactly t.bits w

/-! ### `ENC_STREAM` on the first bytes of the input (R122, R124) -/

theorem WriterMoves.skip {w v : Work} (h : WriterMoves w v) (k : Nat) : WriterMoves (w.skip k) (v.skip k) := by
  obtain ⟨hc, ho, hg⟩ := h
  refine ⟨hc, ?_, hg⟩
  rw [Work.skip_ports, Work.skip_ports, ho]

theorem WriterMoves.ahead {w v : Work} (h : WriterMoves w v) : v.ahead = w.ahead := by
  rw [Work.ahead, h.ports.only]
  rfl

theorem WriterMoves.codeOf {w v : Work} (h : WriterMoves w v) : v.core.codeOf = w.core.codeOf := by
  rw [h.core]
  rfl

theorem WriterMoves.codeLenOf {w v : Work} (h : WriterMoves w v) : v.core.codeLenOf = w.core.codeLenOf := by
  rw [h.core]
  rfl

/-- The passes of `ENC_STREAM` that take the bytes xs. -/
def encodeRun : List Byte → Work → Res Unit
  | [], w => .ok () w
  | b :: xs, w => (encodeSym b (w.skip 1)).bind fun _ v => encodeRun xs v

/-- The loop takes the bytes ahead one by one. -/
theorem forBytes_encodeRun {pre post : List Byte} {k : Nat} {w : Work} (h : w.ahead = pre ++ post) :
    forBytes encodeSym (pre.length + k) w = (encodeRun pre w).bind fun _ v => forBytes encodeSym k v := by
  induction pre generalizing w with
  | nil => rw [List.length_nil, Nat.zero_add, encodeRun, Res.bind_ok]
  | cons b pre ih =>
    rw [List.length_cons, Nat.add_right_comm, forBytes_byte (Work.next_of_ahead h), encodeRun, Res.bind_assoc]
    change (encodeSym b (w.skip 1)).bind _ = _
    cases hb : encodeSym b (w.skip 1) with
    | ok a v =>
      rw [Res.bind_ok, Res.bind_ok, ih]
      rw [((encodeSym_post _ _).of_ok hb).2.ahead, Work.ahead_skip, h]
      rfl
    | raised e v => rfl
    | stuck f => rfl

/-- The passes take their bytes, and otherwise move the writer. -/
theorem encodeRun_moves {xs : List Byte} {w v : Work} (h : encodeRun xs w = .ok () v) :
    WriterMoves (w.skip xs.length) v := by
  induction xs generalizing w with
  | nil => cases h; exact .refl _
  | cons b xs ih =>
    obtain ⟨⟨⟩, u, hu, h⟩ := Res.bind_eq_ok.mp h
    have hm := ((encodeSym_post _ _).of_ok hu).2.skip xs.length
    rw [Work.skip_skip, Nat.add_comm] at hm
    exact hm.trans (ih h)

/-- The passes send the codes of their bytes, one after the other. -/
theorem encodeRun_sendsExactly {xs : List Byte} {w : Work} (hc : ∀ b ∈ xs, w.core.codeLenOf b ≠ 0) :
    SendsExactly (xs.flatMap w.core.codeOf) w (encodeRun xs w) := by
  induction xs generalizing w with
  | nil => exact .nil w
  | cons b xs ih =>
    obtain ⟨hb, hxs⟩ := List.forall_mem_cons.mp hc
    have hfirst : SendsExactly (w.core.codeOf b) w (encodeSym b (w.skip 1)) := by
      rw [encodeSym_coded (w := w.skip 1) hb]
      exact .of_reader w.core (w.ports.inPos + 1) (pushBits_sendsExactly _ (w.skip 1))
    refine hfirst.bind fun v hv => ?_
    obtain ⟨-, hm⟩ := (encodeSym_post _ _).of_ok hv
    have hcode : v.core.codeOf = w.core.codeOf := hm.codeOf
    rw [← hcode]
    exact ih (by rw [hm.codeLenOf]; exact hxs)

/-- Where `ENC_STREAM` starts: the reader closed, the input at its first byte. -/
def encodeStart (w : Work) : Work := rewind (closeReader w)

theorem encodeStart_ahead (w : Work) : (encodeStart w).ahead = w.ports.inData := rfl

theorem encStream_eq_encodeRun {w : Work} {pre post : List Byte} (h : w.ports.inData = pre ++ post) :
    encStream w = (encodeRun pre (encodeStart w)).bind fun _ v => forBytes encodeSym (post.length + 1) v := by
  rw [← forBytes_encodeRun ((encodeStart_ahead w).trans h), ← Nat.add_assoc, ← List.length_append, ← h]
  rfl

/-- On the first bytes of the input `ENC_STREAM` sends their codes. -/
theorem encodeRun_start_sendsExactly {xs : List Byte} {w : Work} (hc : ∀ b ∈ xs, w.core.codeLenOf b ≠ 0) :
    SendsExactly (xs.flatMap w.core.codeOf) w (encodeRun xs (encodeStart w)) :=
  .of_reader (closeReader w).core 0 (encodeRun_sendsExactly (w := encodeStart w) hc)

theorem encStream_sendsExactly {w : Work} (hc : ∀ b ∈ w.ports.inData, w.core.codeLenOf b ≠ 0) :
    SendsExactly (w.ports.inData.flatMap w.core.codeOf) w (encStream w) := by
  rw [encStream_eq_encodeRun (List.append_nil _).symm, ← List.append_nil (List.flatMap _ _)]
  refine (encodeRun_start_sendsExactly hc).bind fun v hv => ?_
  have hahead : v.ahead = [] := by
    rw [(encodeRun_moves hv).ahead, Work.ahead_skip, encodeStart_ahead]
    exact List.drop_length
  rw [List.length_nil, Nat.zero_add, ← Nat.zero_add 1, forBytes_eos (Work.ahead_eq_nil.mp hahead)]
  exact .nil v

/-- A byte with no code ends `ENC_STREAM`, that byte taken (R122). -/
theorem encStream_noCode {w v : Work} {pre post : List Byte} {b : Byte} (h : w.ports.inData = pre ++ b :: post)
    (hv : encodeRun pre (encodeStart w) = .ok () v) (hb : w.core.codeLenOf b = 0) :
    encStream w = .raised .noCode (v.skip 1) ∧ v.ports.inPos = pre.length := by
  have hm := encodeRun_moves hv
  have hahead : v.ahead = b :: post := by
    rw [hm.ahead, Work.ahead_skip, encodeStart_ahead, h]
    exact List.drop_left' rfl
  have hnone : (v.skip 1).core.codeLenOf b = 0 := by
    rw [Work.skip_core, hm.codeLenOf]
    exact hb
  refine ⟨?_, ?_⟩
  · rw [encStream_eq_encodeRun h, hv, Res.bind_ok, forBytes_byte (Work.next_of_ahead hahead)]
    change (encodeSym b (v.skip 1)).bind _ = _
    rw [encodeSym_noCode hnone, Res.bind_raised]
  · rw [hm.ports.only]
    exact Nat.zero_add _

theorem execEncStream_eq {s : State} (hi : s.launch.inPresent = true) (ho : s.launch.outPresent = true)
    (hc : s.core.codesV = true) : exec .encStream s = settle s (encStream s.work) :=
  checked_ready (fun _ => hi) (fun _ => ho) hc

/-- Settles O48: the passes over the input send the codes of their bytes; the end of the input, a byte with no code or
the sink's refusal ends them. -/
theorem encStreamEncodesInput : Obligations.EncStreamEncodesInput := by
  unfold Obligations.EncStreamEncodesInput
  refine ⟨fun s hi ho hv hc hw hp => ?_, fun s pre b post hi ho hv hin hc hb hp => ?_,
    fun s pre post k hi ho hv hin hc hf hk => ?_⟩ <;> rw [execEncStream_eq hi ho hv] <;>
    have hcnt := s.core.wbCnt.isLt
  · obtain ⟨v, hv, hs⟩ := (encStream_sends (w := s.work) hc).takes
      (hp.mono (by simp only [State.work_core, State.work_ports]; omega))
    exact ⟨complete (s.setWork v), by rw [hv]; rfl, rfl, encStream_frame hv, hs.ports, hs.clear hw,
      encStream_reads_all hv, hs.bits⟩
  · obtain ⟨v, hv, -⟩ := (encodeRun_start_sendsExactly (w := s.work) hc).takes
      (hp.mono (by simp only [State.work_core]; omega))
    obtain ⟨hraise, hpos⟩ := encStream_noCode (w := s.work) hin hv hb
    exact ⟨raise .noCode (s.setWork (v.skip 1)), by rw [hraise]; rfl, rfl, congrArg (· + 1) hpos⟩
  · obtain ⟨v, hv⟩ := (encodeRun_start_sendsExactly (w := s.work) hc).fails k hf hk
    exact ⟨raise .writeFailure (s.setWork v),
      by rw [encStream_eq_encodeRun (w := s.work) hin, hv, Res.bind_raised]; rfl, rfl⟩

end Sys2Proof.Machine

/-! ## `COMPRESS` that goes through has written the file of its input (R87, R136, R138) -/

namespace Sys2Proof.Machine

/-! ### `FINISH` (R98, R126) -/

theorem flushPartial_sent {w v : Work} (hw : WriterOk w.core) (h : flushPartial w = .ok () v) :
    v.ports.outData = w.ports.outData ++ partialByte w.core := by
  unfold flushPartial at h
  split at h
  next h0 =>
    cases h
    rw [partialByte, if_pos h0, List.append_nil]
  next h0 =>
    obtain ⟨⟨⟩, u, hu, h⟩ := Res.bind_eq_ok.mp h
    cases h
    rw [partialByte, if_neg h0, byteOf_buffered hw]
    exact (emit_taken hu).2.1

theorem finish_sent {w v : Work} (hw : WriterOk w.core) (h : finish w = .ok () v) :
    v.ports.outData = w.ports.outData ++ partialByte w.core ++ [footerOf w.core.wbCnt] := by
  obtain ⟨⟨⟩, u, hu, h⟩ := Res.bind_eq_ok.mp h
  obtain ⟨⟨⟩, x, hx, h⟩ := Res.bind_eq_ok.mp h
  rw [((flushOut_post _).of_ok h).2, (emit_taken hx).2.1, flushPartial_sent hw hu]

/-- Bits sent from an empty writer on, and then `FINISH`, are written as their packed bytes and the footer (R136). -/
theorem SendsExactly.finish_sent {bs : List Bool} {w u v : Work} {r : Res Unit} (h : SendsExactly bs w r)
    (hw : WriterOk w.core) (h0 : w.core.wbCnt = 0) (hu : r = .ok () u) (hv : finish u = .ok () v) :
    v.ports.outData = w.ports.outData ++ pack bs ++ [footer bs] := by
  have hs := h.sent u hu
  rw [Machine.finish_sent (hs.clear hw) hv, hs.packed h0, hs.footerOf_eq h0]

/-! ### The counts of an input that was counted (R82) -/

theorem forBytes_countByte_fits {k : Nat} {w v : Work} (h : forBytes countByte k w = .ok () v) (b : Byte) :
    (w.core.freqOf b).toNat + w.ahead.count b < 2 ^ 32 := by
  induction k generalizing w with
  | zero => cases h
  | succ k ih =>
    cases ha : w.ahead with
    | nil =>
      rw [List.count_nil]
      exact (w.core.freqOf b).isLt
    | cons a xs =>
      rw [forBytes_byte (Work.next_of_ahead ha)] at h
      obtain ⟨⟨⟩, u, hu, h⟩ := Res.bind_eq_ok.mp h
      change countByte a (w.skip 1) = _ at hu
      rcases countByte_cases a (w.skip 1) with ⟨-, hfull⟩ | ⟨hroom, -⟩
      · rw [hfull] at hu
        cases hu
      · obtain ⟨x, hx, hports, hfreq⟩ := countByte_room hroom
        cases hx.symm.trans hu
        have hxs : u.ahead = xs := by
          rw [Work.ahead, hports]
          change (w.skip 1).ahead = xs
          rw [Work.ahead_skip, ha]
          rfl
        have hfit := ih h
        rw [hfreq, hxs, Work.skip_core, Nat.add_assoc] at hfit
        rwa [← List.singleton_append, List.count_append]

/-- An input that `makeCodes` goes through on is not empty, and every count has room. -/
theorem makeCodes_fits {w v : Work} (h : makeCodes w = .ok () v) :
    w.ports.inData ≠ [] ∧ ∀ b : Byte, w.ports.inData.count b < 2 ^ 32 := by
  refine ⟨fun hnil => ?_, fun b => ?_⟩
  · obtain ⟨u, hu, -⟩ := makeCodes_empty hnil
    rw [hu] at h
    cases h
  · rw [makeCodes_eq] at h
    obtain ⟨⟨⟩, u, hu, -⟩ := Res.bind_eq_ok.mp h
    have hfit := forBytes_countByte_fits (w := closeReader (countStart w)) hu b
    have hzero : (closeReader (countStart w)).core.freqOf b = 0 := countStart_freqOf w b
    have hahead : (closeReader (countStart w)).ahead = w.ports.inData := rfl
    simpa [hzero, hahead] using hfit

/-! ### `COMPRESS` (R133) -/

/-- With the codes made, what is sent is the bits of the file (R135). -/
theorem CodesMade.sendFile_sendsExactly {w v : Work} {tr : Tree} (h : CodesMade w tr v) (magic : Vector Byte 4)
    (h0 : w.core.wbCnt = 0) : SendsExactly (sentBits magic tr w.ports.inData) v (sendFile magic v) := by
  refine (emitAll_sendsExactly magic.toList (h.wbCnt.trans h0)).bind fun u hu => ?_
  have hvu := (emitAll_post _ _).of_ok hu
  refine (serTree_sendsExactly (hvu.tree.trans h.tree)).bind fun x hx => ?_
  have hvx := hvu.trans ((ser_post _ _ _).of_ok hx)
  have hcode : x.core.codeOf = tr.codeOf := hvx.codeOf.trans (funext h.codes)
  have hin : x.ports.inData = w.ports.inData := by rw [hvx.ports.only, h.ports]
  rw [← hcode, ← hin]
  refine encStream_sendsExactly fun b hb hz => ?_
  have hne := Tree.code_ne_nil (h.coded b (hin ▸ hb))
  rw [← hcode, ← List.length_pos_iff, codeOf_length, hz] at hne
  exact Nat.lt_irrefl 0 hne

/-- Whatever the sink answered, `COMPRESS` that goes through has written the file of its input (R136). -/
theorem compress_written {magic : Vector Byte 4} {w v : Work} (hw : WriterOk w.core) (h0 : w.core.wbCnt = 0)
    (h : compress magic w = .ok () v) :
    ∃ f, fileOf magic w.ports.inData = some f ∧ v.ports.outData = w.ports.outData ++ f := by
  rw [compress_eq] at h
  obtain ⟨⟨⟩, u, hu, h⟩ := Res.bind_eq_ok.mp h
  obtain ⟨⟨⟩, x, hx, hv⟩ := Res.bind_eq_ok.mp h
  obtain ⟨hne, hfit⟩ := makeCodes_fits hu
  obtain ⟨u', tr, hu', htree, hm⟩ := makeCodes_made hne hfit
  cases hu'.symm.trans hu
  have hclear : WriterOk u.core := by rw [WriterOk, hm.wbAcc, hm.wbCnt]; exact hw
  have hout := (hm.sendFile_sendsExactly magic h0).finish_sent hclear (hm.wbCnt.trans h0) hx hv
  refine ⟨fileWith magic tr w.ports.inData, by rw [fileOf, htree, Option.map_some], ?_⟩
  rw [hout, fileWith_eq, hm.ports, List.append_assoc]

theorem checked_prereq {rd wr prereq : Bool} {body : Work → Res Unit} {s t : State}
    (h : checked rd wr prereq body s = .next t) (he : t.err = false) : prereq = true := by
  rcases checked_cases rd wr prereq body s with ⟨-, k⟩ | ⟨-, -, -, k⟩ | ⟨-, -, hp, -⟩
  · rw [k] at h; cases h; cases he
  · rw [k] at h; cases h; cases he
  · exact hp

theorem exec_compress_written {s t : State} (hw : WriterOk s.core) (h : exec .compress s = .next t)
    (he : t.err = false) :
    ∃ f, fileOf s.launch.magic s.ports.inData = some f ∧ t.ports.outData = s.ports.outData ++ f := by
  change checked true true s.core.writerEmpty (compress s.launch.magic) s = _ at h
  have h0 : s.core.wbCnt = 0 := by simpa [Core.writerEmpty] using checked_prereq h he
  obtain ⟨v, hv, rfl⟩ := checked_ok h he
  exact compress_written (w := s.work) hw h0 hv

/-- Settles O60: what either machine wrote is the file of its marker and its input. -/
theorem compressIsDeterministic : Obligations.CompressIsDeterministic := by
  unfold Obligations.CompressIsDeterministic
  intro s r t u hlaunch hin hws hwr _ _ ht hu het heu
  obtain ⟨f, hf, hout⟩ := exec_compress_written hws ht het
  obtain ⟨g, hg, hout'⟩ := exec_compress_written hwr hu heu
  rw [← hlaunch, ← hin, hf, Option.some.injEq] at hg
  subst hg
  exact ⟨f, hout, hout'⟩

end Sys2Proof.Machine

/-! ## `BUILD_TREE` on no counts, `WR_MAGIC` (R84, R89, R99) -/

namespace Sys2Proof.Machine

/-- Settles O38: with every count 0 no symbol is present. -/
theorem buildTreeEmptyInput : Obligations.BuildTreeEmptyInput := by
  unfold Obligations.BuildTreeEmptyInput
  intro s h0
  have hnone : present s.work.core = [] :=
    List.eq_nil_iff_forall_not_mem.mpr fun b hb => mem_present.mp hb (h0 b)
  have hbuild : buildTree s.work = .raised .emptyInput s.work := if_pos hnone
  have hexec : exec .buildTree s = settle s (buildTree s.work) := by
    change checked false false true buildTree s = _
    exact checked_ready (by simp) (by simp) rfl
  exact ⟨raise .emptyInput s, by rw [hexec, hbuild]; rfl, raise_failed _ s, rfl⟩

/-! ### `WR_MAGIC` (R99) -/

/-- A willing sink takes whole bytes in their order (R96). -/
theorem emitAll_takes (bs : List Byte) {w : Work} (h : OksAhead bs.length w.ports) :
    ∃ v, emitAll bs w = .ok () v ∧ v.core = w.core ∧ v.ports.outData = w.ports.outData ++ bs := by
  induction bs generalizing w with
  | nil => exact ⟨w, rfl, rfl, (List.append_nil _).symm⟩
  | cons b bs ih =>
    obtain ⟨u, hu, hcore, hout, hok⟩ := emit_takes b h
    obtain ⟨v, hv, hcore', hout'⟩ := ih hok
    exact ⟨v, by rw [emitAll, hu, Res.bind_ok, hv], hcore'.trans hcore, by rw [hout', hout]; simp⟩

/-- The byte that the sink refuses ends the sending; the bytes before it are written (R96). -/
theorem emitAll_fails {bs : List Byte} {n : Nat} {w : Work} (h : FailsAfter n w.ports) (hn : n < bs.length) :
    ∃ v, emitAll bs w = .raised .writeFailure v ∧ w.ports.outData ++ bs.take n <+: v.ports.outData := by
  induction bs generalizing n w with
  | nil => cases hn
  | cons b bs ih =>
    cases n with
    | zero =>
      obtain ⟨kept, rest, hplan⟩ := failsAfter_zero.mp h
      refine ⟨_, by rw [emitAll, emit_fail hplan, Res.bind_raised], ?_⟩
      rw [List.take_zero, List.append_nil]
      exact List.prefix_append _ kept
    | succ n =>
      obtain ⟨rest, hplan, hrest⟩ := failsAfter_succ.mp h
      obtain ⟨v, hv, hout⟩ := ih (w := w.setPorts { w.ports with sinkPlan := rest, outData := w.ports.outData ++ [b] })
        (hrest _ rfl) (Nat.lt_of_succ_lt_succ hn)
      refine ⟨v, by rw [emitAll, emit_ok hplan, Res.bind_ok, hv], ?_⟩
      simpa using hout

theorem magic_toList (magic : Vector Byte 4) : magic.toList = [magic[0], magic[1], magic[2], magic[3]] := by
  refine List.ext_getElem (by simp) fun i hi _ => ?_
  rw [Vector.length_toList] at hi
  interval_cases i <;> rfl

theorem execWrMagic_eq {s : State} (ho : s.launch.outPresent = true) (h0 : s.core.wbCnt = 0) :
    exec .wrMagic s = settle s (emitAll s.launch.magic.toList s.work) :=
  checked_ready (by simp) (fun _ => ho) (by rw [Core.writerEmpty, h0]; rfl)

/-- Settles O43: the four bytes go out one by one; with bits buffered the prerequisite is false. -/
theorem wrMagicWritesMarker : Obligations.WrMagicWritesMarker := by
  unfold Obligations.WrMagicWritesMarker
  refine ⟨fun s ho h0 hp => ?_, fun s n ho h0 hn hf => ?_, fun s ho h0 => ?_⟩
  · obtain ⟨v, hv, hcore, hout⟩ := emitAll_takes s.launch.magic.toList (w := s.work) (by simpa using hp)
    refine ⟨complete (s.setWork v), by rw [execWrMagic_eq ho h0, hv]; rfl, rfl, hcore,
      ((emitAll_post _ _).of_ok hv).ports.only, ?_⟩
    rw [← magic_toList]
    exact hout
  · obtain ⟨v, hv, hout⟩ := emitAll_fails (bs := s.launch.magic.toList) (w := s.work) hf (by simpa using hn)
    exact ⟨raise .writeFailure (s.setWork v), by rw [execWrMagic_eq ho h0, hv]; rfl, rfl, hout⟩
  · have hfull : s.core.writerEmpty = false := beq_eq_false_iff_ne.mpr h0
    refine ⟨raise .sequenceError s, ?_, raise_failed _ s, rfl⟩
    change checked false true s.core.writerEmpty (wrMagic s.launch.magic) s = _
    rw [hfull]
    exact checked_no_prereq (by simp) fun _ => ho

end Sys2Proof.Machine

/-! ## The register map (R42, R45) -/

namespace Sys2Proof.Machine

theorem Reg.codeLen_offset_toNat (i : Fin 256) : (Reg.codeLen i).offset.toNat = 0x6000 + 4 * i.val :=
  Nat.mod_eq_of_lt (by omega)

theorem Reg.codeBits_offset_toNat (i : Fin 256) (j : Fin 8) :
    (Reg.codeBits i j).offset.toNat = 0x7000 + 32 * i.val + 4 * j.val :=
  Nat.mod_eq_of_lt (by omega)

theorem regAt_node_offset (i : Fin 511) (w : Fin 8) : regAt (Reg.node i w).offset = some (.node i w) := by
  have hi : Fin.ofNat 511 ((0x1000 + 32 * i.val + 4 * w.val - 0x1000) / 32) = i := Fin.ext (by simp; omega)
  have hw : Fin.ofNat 8 ((0x1000 + 32 * i.val + 4 * w.val - 0x1000) / 4 % 8) = w := Fin.ext (by simp; omega)
  simp only [regAt, Reg.node_offset_toNat]
  rw [if_neg (by omega), if_neg (by omega), if_pos (by omega), hi, hw]

theorem regAt_codeLen_offset (i : Fin 256) : regAt (Reg.codeLen i).offset = some (.codeLen i) := by
  have hi : Fin.ofNat 256 ((0x6000 + 4 * i.val - 0x6000) / 4) = i := Fin.ext (by simp)
  simp only [regAt, Reg.codeLen_offset_toNat]
  rw [if_neg (by omega), if_neg (by omega), if_neg (by omega), if_pos (by omega), hi]

theorem regAt_codeBits_offset (i : Fin 256) (j : Fin 8) : regAt (Reg.codeBits i j).offset = some (.codeBits i j) := by
  have hi : Fin.ofNat 256 ((0x7000 + 32 * i.val + 4 * j.val - 0x7000) / 32) = i := Fin.ext (by simp; omega)
  have hj : Fin.ofNat 8 ((0x7000 + 32 * i.val + 4 * j.val - 0x7000) / 4 % 8) = j := Fin.ext (by simp; omega)
  simp only [regAt, Reg.codeBits_offset_toNat]
  rw [if_neg (by omega), if_neg (by omega), if_neg (by omega), if_neg (by omega), if_pos (by omega), hi, hj]

theorem regAt_offset (r : Reg) : regAt r.offset = some r := by
  cases r with
  | ctrl | status | cmd | arg | result | tree | wb | rb0 | rb1 => rfl
  | freq i => exact regAt_freq_offset i
  | node i w => exact regAt_node_offset i w
  | codeLen i => exact regAt_codeLen_offset i
  | codeBits i j => exact regAt_codeBits_offset i j

theorem Reg.offset_mod_four (r : Reg) : r.offset.toNat % 4 = 0 := by
  cases r with
  | ctrl | status | cmd | arg | result | tree | wb | rb0 | rb1 => rfl
  | freq i => rw [Reg.freq_offset_toNat]; omega
  | node i w => rw [Reg.node_offset_toNat]; omega
  | codeLen i => rw [Reg.codeLen_offset_toNat]; omega
  | codeBits i j => rw [Reg.codeBits_offset_toNat]; omega

/-- At a multiple of 4 no register stands exactly in the reserved ranges. -/
theorem regAt_eq_none_iff {off : Offset} (h4 : off.toNat % 4 = 0) : regAt off = none ↔ ReservedOffset off := by
  have hlt := off.isLt
  unfold regAt
  dsimp only
  split
  next h =>
    have hq : off.toNat / 4 < 9 := by omega
    refine iff_of_false ?_ (by omega)
    generalize off.toNat / 4 = q at hq
    interval_cases q <;> exact Option.some_ne_none _
  next h => split_ifs <;> simp only [false_iff, true_iff] <;> omega

/-- Settles O23: each register's offset lies in the range that the map gives its kind. -/
theorem registerMapInverse : Obligations.RegisterMapInverse := by
  unfold Obligations.RegisterMapInverse
  exact ⟨⟨rfl, rfl, rfl, rfl, rfl, rfl, rfl, rfl, rfl⟩,
    fun i => ⟨Reg.freq_offset_toNat i, Reg.codeLen_offset_toNat i⟩, Reg.node_offset_toNat, Reg.codeBits_offset_toNat,
    fun r => ⟨regAt_offset r, r.offset_mod_four⟩, fun _ _ h4 h => offset_of_regAt h4 h,
    fun _ h4 => regAt_eq_none_iff h4⟩

/-! ## Reads and writes of a register (R36, R37, R42 to R48) -/

/-! ### By the register -/

theorem regRead_offset (r : Reg) (s : State) : regRead r.offset 4 s = readReg r s := by
  rw [regRead_supported r.offset_mod_four, regAt_offset]
  rfl

theorem regWrite_offset (r : Reg) (v : Word) (s : State) : regWrite r.offset 4 v s = writeReg r v s := by
  rw [regWrite_supported r.offset_mod_four, regAt_offset]
  rfl

/-- With no command in flight and no error every register reads as its word. -/
theorem regRead_offset_idle (r : Reg) {s : State} (hb : s.busy = false) (he : s.err = false) :
    regRead r.offset 4 s = (regWord r s, s) := by
  rw [regRead_offset]
  rcases readReg_cases r s with ⟨h, -⟩ | ⟨-, he', -⟩ | ⟨-, -, -, hb' | he', -⟩
  · exact h
  · simp [he] at he'
  · simp [hb] at hb'
  · simp [he] at he'

theorem regWrite_status (v : Word) (s : State) : regWrite 0x0004 4 v s = writeStatus v s := rfl

/-- Settles O28: a read leaves the state or counts a draw. -/
theorem readsChangeNothing : Obligations.ReadsChangeNothing := by
  unfold Obligations.ReadsChangeNothing
  intro s off n
  rcases regRead_state off n s with h | h
  · exact ⟨s.ports.draws, h⟩
  · exact ⟨s.ports.draws + 1, h⟩

/-- Settles O24: the registers are read at their offsets, idle or, for `CTRL`, `CMD` and `STATUS`, by their own
rules. -/
theorem readGivesRegister : Obligations.ReadGivesRegister := by
  unfold Obligations.ReadGivesRegister
  refine ⟨fun s r hb he => regRead_offset_idle r hb he,
    fun s hb he => ⟨regRead_offset_idle .arg hb he, regRead_offset_idle .result hb he⟩,
    fun s i hb he => ⟨regRead_offset_idle (.freq i) hb he, ?_⟩, fun s v hb he => ?_, fun s i v hb he => ?_,
    fun s => ⟨regRead_offset .ctrl s, regRead_offset .cmd s⟩, fun s he => ?_⟩
  · refine (regRead_offset_idle (.codeLen i) hb he).trans ?_
    simp [regWord, fieldAt]
  · rw [regWrite_arg v hb]
    exact congrArg Prod.fst (regRead_offset_idle .arg (s := { s with core := { s.core with arg := v } }) hb he)
  · change (regRead (Reg.freq i).offset 4 (regWrite (Reg.freq i).offset 4 v s)).1 = v
    rw [regWrite_freq i v hb, regRead_offset_idle _ (by exact hb) (by exact he)]
    exact Vector.getElem_set_self i.isLt
  · refine (regRead_offset .status s).trans ?_
    simp [readReg, he]

/-! ### The bits of a word's fields -/

theorem flagAt_bit {lo : Nat} (h : lo < 32) (b : Bool) : (flagAt lo b).getLsbD lo = b := by
  simp [getLsbD_flagAt h]

theorem flagAt_bit_other {lo k : Nat} (h : lo < 32) (hk : k ≠ lo) (b : Bool) : (flagAt lo b).getLsbD k = false := by
  simp [getLsbD_flagAt h, hk]

theorem fieldAt_bit_outside {n lo k : Nat} (h : lo + n ≤ 32) (hk : k < lo ∨ lo + n ≤ k) (v : BitVec n) :
    (fieldAt lo v).getLsbD k = false := by
  rw [getLsbD_fieldAt h]
  rcases hk with hk | hk
  · simp [Nat.not_le.mpr hk]
  · simp [BitVec.getLsbD_of_ge v (k - lo) (by omega)]

theorem fieldAt_extract {n lo : Nat} (h : lo + n ≤ 32) (v : BitVec n) : (fieldAt lo v).extractLsb' lo n = v := by
  refine BitVec.eq_of_getLsbD_eq fun k hk => ?_
  rw [BitVec.getLsbD_extractLsb', getLsbD_fieldAt h]
  simp [hk]

/-- Bits outside a field are 0. -/
theorem fieldAt_extract_outside {n lo m p : Nat} (h : lo + n ≤ 32) (ho : p + m ≤ lo ∨ lo + n ≤ p) (v : BitVec n) :
    (fieldAt lo v).extractLsb' p m = 0#m := by
  refine BitVec.eq_of_getLsbD_eq fun k hk => ?_
  rw [BitVec.getLsbD_extractLsb', fieldAt_bit_outside h (by omega), Bool.and_false, BitVec.getLsbD_zero]

theorem flagAt_extract_outside {lo m p : Nat} (h : lo < 32) (ho : p + m ≤ lo ∨ lo < p) (b : Bool) :
    (flagAt lo b).extractLsb' p m = 0#m := fieldAt_extract_outside (by omega) ho _

/-- A field has no bit in common with a mask that leaves its place 0. -/
theorem fieldAt_and_eq_zero {n lo : Nat} {m : Word} (h : fieldAt lo (BitVec.allOnes n) &&& m = 0#32)
    (v : BitVec n) : fieldAt lo v &&& m = 0#32 := by
  have hsub : fieldAt lo v = fieldAt lo v &&& fieldAt lo (BitVec.allOnes n) := by
    rw [fieldAt, fieldAt, ← BitVec.shiftLeft_and_distrib, ← BitVec.setWidth_and, BitVec.and_allOnes]
  rw [hsub, BitVec.and_assoc, h, BitVec.and_zero]

theorem flagAt_and_eq_zero {lo : Nat} {m : Word} (h : fieldAt lo (BitVec.allOnes 1) &&& m = 0#32) (b : Bool) :
    flagAt lo b &&& m = 0#32 := fieldAt_and_eq_zero h _

end Sys2Proof.Machine

/-! ## The fields of `STATUS`, `CTRL` and the views (R20, R21, R32, R42, R43, R152) -/

namespace Sys2Proof.Machine

/-! ### The computed values of the reader (R32) -/

theorem rbLim_le (c : Core) : c.rbLim ≤ 8 := by
  unfold Core.rbLim
  split
  · split
    · exact le_refl 8
    · cases hf : footerCount c.rbLa0 with
      | none => exact Nat.zero_le 8
      | some n => exact footerCount_le hf
  · exact Nat.zero_le 8

theorem rbLim_more {c : Core} (ho : c.hdrOk = true) (hv : c.rbLa1V = true) : c.rbLim = 8 := by
  simp [Core.rbLim, ho, hv]

theorem rbLim_final {c : Core} {k : Fin 8} (ho : c.hdrOk = true) (hv : c.rbLa1V = false)
    (hf : c.rbLa0 = BitVec.ofNat 8 (2 ^ k.val)) : c.rbLim = 8 - k.val := by
  simp only [Core.rbLim, ho, hv, hf, footerCount_two_pow, if_true, Bool.false_eq_true, if_false, Option.getD_some]

theorem rbLim_closed {c : Core} (ho : c.hdrOk = false) : c.rbLim = 0 := by
  simp [Core.rbLim, ho]

theorem rbEnd_of_closed {c : Core} (ho : c.hdrOk = false) : c.rbEnd = false := by
  simp [Core.rbEnd, Core.rbFinal, ho]

theorem rbEnd_final {c : Core} {k : Fin 8} (ho : c.hdrOk = true) (hv : c.rbLa1V = false)
    (hf : c.rbLa0 = BitVec.ofNat 8 (2 ^ k.val)) : c.rbEnd = true ↔ c.rbPos.toNat = 8 - k.val := by
  simp [Core.rbEnd, Core.rbFinal, ho, hv, rbLim_final ho hv hf]

/-! ### `STATUS` and `CTRL` (R20, R21) -/

theorem ctrlWord_bit (s : State) : (ctrlWord s).getLsbD 0 = s.ie := flagAt_bit (by decide) s.ie

/-- The flags of `STATUS` (R21). -/
theorem statusWord_flags (s : State) :
    ((statusWord s).getLsbD 0 = s.busy ∧ (statusWord s).getLsbD 1 = s.done ∧ (statusWord s).getLsbD 2 = s.err ∧
      (statusWord s).getLsbD 3 = s.cmdLost) ∧
    (statusWord s).getLsbD 8 = s.core.treeV ∧ (statusWord s).getLsbD 9 = s.core.treeSrc ∧
    (statusWord s).getLsbD 10 = s.core.codesV ∧ (statusWord s).getLsbD 11 = s.core.hdrOk := by
  simp (disch := decide) only [statusWord, BitVec.getLsbD_or, flagAt_bit, flagAt_bit_other, fieldAt_bit_outside,
    Bool.or_false, Bool.false_or, and_self]

theorem statusWord_rbEnd (s : State) : (statusWord s).getLsbD 12 = s.core.rbEnd := by
  simp (disch := decide) only [statusWord, BitVec.getLsbD_or, flagAt_bit, flagAt_bit_other, fieldAt_bit_outside,
    Bool.or_false, Bool.false_or]

/-- The wider fields of `STATUS`, and the bits that belong to none (R21). -/
theorem statusWord_fields (s : State) :
    (statusWord s).extractLsb' 4 4 = s.errcode ∧ (statusWord s).extractLsb' 13 3 = 0#3 ∧
    (statusWord s).extractLsb' 16 8 = s.lastOpc ∧ (statusWord s).extractLsb' 24 8 = 0#8 := by
  simp (disch := decide) only [statusWord, BitVec.extractLsb'_or, fieldAt_extract, fieldAt_extract_outside,
    flagAt_extract_outside, BitVec.or_zero, BitVec.zero_or, and_self]

/-- Settles O29: the fields of `STATUS` do not overlap, so each bit is that of its field. -/
theorem statusLayout : Obligations.StatusLayout := by
  unfold Obligations.StatusLayout
  refine ⟨fun s => ?_, fun s h => ?_, fun s k ho hv hf => ?_, fun s v => rfl⟩
  · obtain ⟨⟨hbusy, hdone, herr, hlost⟩, htree, hsrc, hcodes, hhdr⟩ := statusWord_flags s
    obtain ⟨hcode, hlow, hopc, hhigh⟩ := statusWord_fields s
    exact ⟨hbusy, hdone, herr, hlost, hcode, htree, hsrc, hcodes, hhdr, statusWord_rbEnd s, hlow, hopc, hhigh⟩
  · rw [statusWord_rbEnd]
    rcases h with ho | hv
    · exact rbEnd_of_closed ho
    · exact rbEnd_of_more hv
  · rw [statusWord_rbEnd]
    exact rbEnd_final ho hv hf

/-- Settles O30: by the bits of `CTRL` and `STATUS`; an accepted word clears `DONE`. -/
theorem irqIsLevel : Obligations.IrqIsLevel := by
  unfold Obligations.IrqIsLevel
  refine ⟨fun s => ?_, fun s v h => ?_, fun s w hb he => ?_, fun s v h => ?_⟩
  · obtain ⟨⟨-, hdone, -⟩, -⟩ := statusWord_flags s
    rw [ctrlWord_bit, hdone, irq, Bool.and_eq_true]
  · rw [regWrite_status, writeStatus, h, Bool.not_true, Bool.and_false]
  · rw [regWrite_cmd, issue_accepted hb (.inl he)]
    rfl
  · rw [regWrite_ctrl, irq, h, Bool.false_and]
    exact ⟨rfl, rfl⟩

/-! ### The views (R42) -/

theorem treeWord_fields (c : Core) :
    (treeWord c).extractLsb' 0 9 = c.root ∧ (treeWord c).extractLsb' 16 9 = c.nleaf := by
  simp (disch := decide) only [treeWord, BitVec.extractLsb'_or, fieldAt_extract, fieldAt_extract_outside,
    BitVec.or_zero, BitVec.zero_or, and_self]

theorem wbWord_fields (c : Core) :
    (wbWord c).extractLsb' 0 8 = c.wbAcc ∧ (wbWord c).extractLsb' 8 3 = c.wbCnt := by
  simp (disch := decide) only [wbWord, BitVec.extractLsb'_or, fieldAt_extract, fieldAt_extract_outside,
    BitVec.or_zero, BitVec.zero_or, and_self]

theorem rb0Word_fields (c : Core) :
    (rb0Word c).extractLsb' 0 8 = c.rbCur ∧ (rb0Word c).extractLsb' 8 4 = c.rbPos ∧
    (rb0Word c).extractLsb' 16 8 = c.rbLa0 ∧ (rb0Word c).extractLsb' 24 8 = c.rbLa1 := by
  simp (disch := decide) only [rb0Word, BitVec.extractLsb'_or, fieldAt_extract, fieldAt_extract_outside,
    BitVec.or_zero, BitVec.zero_or, and_self]

theorem rb0Word_rbLim (c : Core) : (rb0Word c).extractLsb' 12 4 = BitVec.ofNat 4 c.rbLim := by
  simp (disch := decide) only [rb0Word, BitVec.extractLsb'_or, fieldAt_extract, fieldAt_extract_outside,
    BitVec.or_zero, BitVec.zero_or]

theorem rb0Word_rbLim_toNat (c : Core) : ((rb0Word c).extractLsb' 12 4).toNat = c.rbLim := by
  rw [rb0Word_rbLim]
  exact Nat.mod_eq_of_lt (Nat.lt_of_le_of_lt (rbLim_le c) (by decide))

theorem rb1Word_flags (c : Core) : (rb1Word c).getLsbD 0 = c.rbLa1V ∧ (rb1Word c).getLsbD 1 = c.rbFinal := by
  simp (disch := decide) only [rb1Word, BitVec.getLsbD_or, flagAt_bit, flagAt_bit_other, Bool.or_false,
    Bool.false_or, and_self]

theorem rb1Word_rbEnd (c : Core) : (rb1Word c).getLsbD 2 = c.rbEnd := by
  simp (disch := decide) only [rb1Word, BitVec.getLsbD_or, flagAt_bit, flagAt_bit_other, Bool.or_false,
    Bool.false_or]

/-- Code bit k of a symbol stands k bits below the top of its words (R42). -/
theorem codeBits_bit (s : State) (i k : Fin 256) {j : Fin 8} (hj : j.val = k.val / 32) :
    (regWord (.codeBits i j) s).getLsbD (31 - k.val % 32) = s.core.codeBits[i].getLsbD (255 - k.val) := by
  rw [regWord, BitVec.getLsbD_extractLsb', decide_eq_true (by omega), Bool.true_and]
  congr 1
  omega

/-- Settles O33: the fields of each view do not overlap. -/
theorem viewLayouts : Obligations.ViewLayouts := by
  unfold Obligations.ViewLayouts
  have hlim (s : State) : (regWord .rb0 s).extractLsb' 12 4 = BitVec.ofNat 4 s.core.rbLim := rb0Word_rbLim s.core
  have hend (s : State) : (regWord .rb1 s).getLsbD 2 = s.core.rbEnd := rb1Word_rbEnd s.core
  refine ⟨fun s ho hv => ?_, fun s k ho hv hf => ?_, fun s ho => ?_, fun s => ?_⟩
  · rw [hlim, hend, rbLim_more ho hv]
    exact ⟨rfl, rbEnd_of_more hv⟩
  · rw [hend]
    exact ⟨(rb0Word_rbLim_toNat s.core).trans (rbLim_final ho hv hf), rbEnd_final ho hv hf⟩
  · rw [hlim, hend, rbLim_closed ho]
    exact ⟨rfl, rbEnd_of_closed ho⟩
  · obtain ⟨hcur, hpos, hla0, hla1⟩ := rb0Word_fields s.core
    obtain ⟨hla1v, hfinal⟩ := rb1Word_flags s.core
    exact ⟨⟨rfl, rfl, fun i => ⟨rfl, fieldAt_zero_toNat _ (by decide)⟩⟩, treeWord_fields s.core, wbWord_fields s.core,
      ⟨hcur, hpos, rb0Word_rbLim_toNat s.core, hla0, hla1⟩, ⟨hla1v, hfinal, hend s⟩, fun i k j => codeBits_bit s i k⟩

/-! ### Reserved bits (R36, R45) -/

/-- A word all of whose bits are fields has no other bit set. -/
theorem and_not_full (v : Word) : v &&& ~~~(0xFFFFFFFF : Word) = 0#32 := BitVec.and_zero

theorem Node.word_reserved (n : Node) (i : Fin 511) (w : Fin 8) :
    n.word w.val &&& ~~~(Reg.node i w).definedBits = 0#32 := by
  have hslot (v : Slot) : fieldAt 0 v &&& ~~~(0x000001FF : Word) = 0#32 := fieldAt_and_eq_zero (by decide) v
  have hbyte (v : Byte) : fieldAt 0 v &&& ~~~(0x000000FF : Word) = 0#32 := fieldAt_and_eq_zero (by decide) v
  have hnone : (0 : Word) &&& ~~~(0x00000000 : Word) = 0#32 := BitVec.zero_and
  match w with
  | 0 =>
    have h0 : n.word 0 &&& ~~~(0x00FFFF07 : Word) = 0#32 := n.word_zero_reserved
    exact h0
  | 1 => exact hslot n.parent
  | 2 => exact hslot n.c0
  | 3 => exact hslot n.c1
  | 4 => exact and_not_full _
  | 5 => exact hbyte _
  | 6 | 7 => exact hnone

/-- The bits of a register's word that belong to no field are 0. -/
theorem regWord_reserved (r : Reg) (s : State) : regWord r s &&& ~~~r.definedBits = 0#32 := by
  cases r with
  | node i w => exact s.core.node[i].word_reserved i w
  | cmd => exact BitVec.zero_and
  | arg | result | rb0 | freq | codeBits => exact and_not_full _
  | ctrl | status | tree | wb | rb1 | codeLen =>
    simp (disch := decide) only [regWord, ctrlWord, statusWord, treeWord, wbWord, rb1Word, Reg.definedBits,
      BitVec.and_or_distrib_right, flagAt_and_eq_zero, fieldAt_and_eq_zero, BitVec.or_self]

/-- What a read gives of a register has no other bits set (R45). -/
theorem readReg_reserved (r : Reg) (s : State) : (readReg r s).1 &&& ~~~r.definedBits = 0#32 := by
  rcases readReg_cases r s with ⟨h, -⟩ | ⟨rfl, -, h⟩ | ⟨-, -, -, -, h⟩ <;> rw [h]
  · exact regWord_reserved r s
  · rw [BitVec.and_or_distrib_right, BitVec.and_assoc, BitVec.and_assoc,
      show statusDefined &&& ~~~Reg.status.definedBits = 0#32 by decide,
      show statusMirrors &&& ~~~Reg.status.definedBits = 0#32 by decide, BitVec.and_zero, BitVec.and_zero,
      BitVec.or_self]
  · rw [BitVec.and_assoc, BitVec.and_not_self]
    exact BitVec.and_zero

theorem regRead_reserved {r : Reg} {d : Word} (h : r.definedBits = d) (s : State) :
    (regRead r.offset 4 s).1 &&& ~~~d = 0#32 := by
  rw [regRead_offset, ← h]
  exact readReg_reserved r s

/-- A register none of whose bits is defined reads 0. -/
theorem regRead_eq_zero {r : Reg} (h : r.definedBits = 0#32) (s : State) : (regRead r.offset 4 s).1 = 0#32 := by
  have k := regRead_reserved h s
  rwa [BitVec.not_zero, BitVec.and_allOnes] at k

/-- Settles O31: after an error a read of `STATUS` is the stored fields with free mirror bits. -/
theorem statusAfterError : Obligations.StatusAfterError := by
  unfold Obligations.StatusAfterError
  refine fun s he => ⟨?_, regRead_reserved (r := .status) rfl s⟩
  have hread : (regRead 0x0004 4 s).1 =
      (statusWord s &&& statusDefined) ||| (Config.freeWord s.ports.draws &&& statusMirrors) := by
    rw [show (0x0004 : Offset) = Reg.status.offset from rfl, regRead_offset, readReg, if_pos he]
  rw [hread, BitVec.and_or_distrib_right, BitVec.and_assoc, BitVec.and_assoc,
    show statusDefined &&& 0x00FF00FF = 0x00FF00FF by decide, show statusMirrors &&& 0x00FF00FF = 0#32 by decide,
    BitVec.and_zero, BitVec.or_zero]

/-! ### Writes that are ignored (R20, R21, R42) -/

theorem flagAt_zero_getLsbD (v : Word) : flagAt 0 (v.getLsbD 0) = v &&& 1 := by
  refine BitVec.eq_of_getLsbD_eq fun k _ => ?_
  rw [getLsbD_flagAt (by decide), BitVec.getLsbD_and, BitVec.ofNat_eq_ofNat, BitVec.getLsbD_one]
  by_cases hk : k = 0
  · simp [hk]
  · simp [hk]

/-- Settles O26: every register's word has only its defined bits set, and no write reaches a read-only register. -/
theorem reservedBitsReadZero : Obligations.ReservedBitsReadZero := by
  unfold Obligations.ReservedBitsReadZero
  refine ⟨fun s off v h4 hr => ?_, fun s => ⟨regRead_reserved (r := .ctrl) rfl s,
      regRead_reserved (r := .status) rfl s, regRead_eq_zero (r := .cmd) rfl s, regRead_reserved (r := .tree) rfl s,
      regRead_reserved (r := .wb) rfl s, regRead_reserved (r := .rb1) rfl s⟩,
    fun s i off hoff => ?_, fun s i => regRead_reserved (r := .codeLen i) (d := 0x000000FF) rfl s,
    fun s r v hr => ?_, fun s v => ?_, fun s v => ?_⟩
  · have hnone := (regAt_eq_none_iff h4).mpr hr
    rw [regRead_supported h4, regWrite_supported h4, hnone]
    exact ⟨rfl, rfl⟩
  · subst hoff
    have hslot (w : Fin 8) (h : (Reg.node i w).definedBits = 0x000001FF) := regRead_reserved h s
    exact ⟨regRead_reserved (r := .node i 0) (d := 0x00FFFF07) rfl s, hslot 1 rfl, hslot 2 rfl, hslot 3 rfl,
      regRead_reserved (r := .node i 5) (d := 0x000000FF) rfl s, regRead_eq_zero (r := .node i 6) rfl s,
      regRead_eq_zero (r := .node i 7) rfl s⟩
  · rw [regWrite_offset]
    rcases hr with rfl | rfl | rfl | rfl | rfl | ⟨i, w, rfl⟩ | ⟨i, rfl⟩ | ⟨i, j, rfl⟩ <;> rfl
  · rw [regWrite_ctrl]
    exact flagAt_zero_getLsbD v
  · rw [regWrite_status, regWrite_status]
    simp [writeStatus]

end Sys2Proof.Machine
